-- ==== Sys2Proof/Word.lean ====
section
/-! DEFINITION. The value widths of gamboye CORE (00_scope.md R6, R8, R9). -/

namespace Sys2Proof

/-- A general field, a control byte, a memory byte, a tile index. -/
abbrev Byte := BitVec 8

/-- `sp`, `pc`, a pair view, a memory address (20_memory.md R50). -/
abbrev Half := BitVec 16

/-- A flag, `ime`, the mode bit (R10: true is 1, false is 0). -/
abbrev Bit := BitVec 1

/-- A 2-bit colour index (43_pixel_primitives.md R192). -/
abbrev ColourIndex := BitVec 2

/-- A 32-bit colour value, and the `data` part of a response (R199, R82). -/
abbrev Word := BitVec 32

/-- The number of a background map cell, 0 to 1023 (20_memory.md R50, R58). -/
abbrev CellOffset := BitVec 10

/-- A command word: `op[23:16]`, `arg[15:0]` (30_encoding.md R81). -/
abbrev Command := BitVec 24

end Sys2Proof
end

