-- ==== Sys2Proof/Syntax.lean ====
section
/-! DEFINITION. The 47 operations of the command port (30_encoding.md R87), one constructor per row of spec/opcode_table.json.
An operand has the width of its operand form (R88) in its type, so every term is an operation with a legal operand: the spec
has no illegal operand value (R14). -/

namespace Sys2Proof

/-- One constructor per row of R87, in the table's order. -/
inductive Instr where
  | rfNew
  | getA | getB | getC | getD | getE | getH | getL | getF
  | setA (v : Byte) | setB (v : Byte) | setC (v : Byte) | setD (v : Byte)
  | setE (v : Byte) | setH (v : Byte) | setL (v : Byte) | setF (v : Byte)
  | getBC | getDE | getHL | getAF | getSP | getPC
  | setBC (v : Half) | setDE (v : Half) | setHL (v : Half) | setAF (v : Half) | setSP (v : Half) | setPC (v : Half)
  | getZero | getSubtract | getHalfCarry | getCarry | getIme
  | setZero (v : Bit) | setSubtract (v : Bit) | setHalfCarry (v : Bit) | setCarry (v : Bit) | setIme (v : Bit)
  | getLcdc | getStat
  | setLcdc (v : Byte) | setStat (v : Byte)
  | pxIlv (hi lo : Byte)
  | pxTaddr (off : Half)
  | pxPal (ix : ColourIndex)
  | pxRender
  deriving DecidableEq, Repr

/-- The operand forms of R88. -/
inductive OperandForm where
  | none | v1 | v2 | v8 | v16 | hiLo
  deriving DecidableEq, Repr

/-- The bits of `arg` an operand form ignores (R88, last column). -/
def OperandForm.ignored : OperandForm → BitVec 16
  | .none => 0xFFFF
  | .v1 => 0xFFFE
  | .v2 => 0xFFFC
  | .v8 => 0xFF00
  | .v16 => 0x0000
  | .hiLo => 0x0000

/-- The operand form of each operation (R87, third column). -/
def Instr.form : Instr → OperandForm
  | .rfNew => .none
  | .getA | .getB | .getC | .getD | .getE | .getH | .getL | .getF => .none
  | .setA _ | .setB _ | .setC _ | .setD _ | .setE _ | .setH _ | .setL _ | .setF _ => .v8
  | .getBC | .getDE | .getHL | .getAF | .getSP | .getPC => .none
  | .setBC _ | .setDE _ | .setHL _ | .setAF _ | .setSP _ | .setPC _ => .v16
  | .getZero | .getSubtract | .getHalfCarry | .getCarry | .getIme => .none
  | .setZero _ | .setSubtract _ | .setHalfCarry _ | .setCarry _ | .setIme _ => .v1
  | .getLcdc | .getStat => .none
  | .setLcdc _ | .setStat _ => .v8
  | .pxIlv _ _ => .hiLo
  | .pxTaddr _ => .v16
  | .pxPal _ => .v2
  | .pxRender => .none

/-- The source's function names of R93, the only pseudo-instructions of the block. -/
inductive SourceCall where
  | new
  | getBC | getDE | getHL | getAF
  | setBC (v : Half) | setDE (v : Half) | setHL (v : Half) | setAF (v : Half)
  | asByte | setBits (v : Byte)
  | zero | subtract | halfCarry | carry
  | setZero (v : Bit) | setSubtract (v : Bit) | setHalfCarry (v : Bit) | setCarry (v : Bit)
  | interleave (hi lo : Byte)
  | render
  deriving DecidableEq, Repr

/-- R93: each source name expands to exactly one command. -/
def SourceCall.expand : SourceCall → Instr
  | .new => .rfNew
  | .getBC => .getBC
  | .getDE => .getDE
  | .getHL => .getHL
  | .getAF => .getAF
  | .setBC v => .setBC v
  | .setDE v => .setDE v
  | .setHL v => .setHL v
  | .setAF v => .setAF v
  | .asByte => .getF
  | .setBits v => .setF v
  | .zero => .getZero
  | .subtract => .getSubtract
  | .halfCarry => .getHalfCarry
  | .carry => .getCarry
  | .setZero v => .setZero v
  | .setSubtract v => .setSubtract v
  | .setHalfCarry v => .setHalfCarry v
  | .setCarry v => .setCarry v
  | .interleave hi lo => .pxIlv hi lo
  | .render => .pxRender

end Sys2Proof
end

