-- ==== Sys2Proof/WellFormed.lean ====
section
/-! DEFINITION. Which command words are well formed: the word an assembler emits (30_encoding.md R87, R89, R92). An `Instr` needs
no check of its own, since the width of every operand is in its type (R88). -/

namespace Sys2Proof

/-- The operand form that goes with an opcode (R87), or none for the reserved opcodes of R89. Written over R85's groups: group
nibble `op[7:4]`, index nibble `op[3:0]`. -/
def opcodeForm (op : Byte) : Option OperandForm :=
  let group := op.toNat / 16
  let index := op.toNat % 16
  match group with
  | 0x0 => if index = 0 then some .none else none
  | 0x1 => if index ≤ 7 then some .none else none
  | 0x2 => if index ≤ 7 then some .v8 else none
  | 0x3 => if index ≤ 5 then some .none else none
  | 0x4 => if index ≤ 5 then some .v16 else none
  | 0x5 => if index ≤ 4 then some .none else none
  | 0x6 => if index ≤ 4 then some .v1 else none
  | 0x8 =>
    match index with
    | 0x0 | 0x1 => some .none
    | 0x2 | 0x3 => some .v8
    | 0x8 => some .hiLo
    | 0x9 => some .v16
    | 0xA => some .v2
    | 0xF => some .none
    | _ => none
  | _ => none

/-- The reserved opcodes, range by range as R89 lists them. -/
def reservedOpcode (op : Byte) : Bool :=
  let n := op.toNat
  (0x01 ≤ n && n ≤ 0x0F) || (0x18 ≤ n && n ≤ 0x1F) || (0x28 ≤ n && n ≤ 0x2F) || (0x36 ≤ n && n ≤ 0x3F) ||
  (0x46 ≤ n && n ≤ 0x4F) || (0x55 ≤ n && n ≤ 0x5F) || (0x65 ≤ n && n ≤ 0x6F) || (0x70 ≤ n && n ≤ 0x7F) ||
  (0x84 ≤ n && n ≤ 0x87) || (0x8B ≤ n && n ≤ 0x8E) || (0x90 ≤ n && n ≤ 0xFF)

/-- First check: the word's opcode is assigned (R87, R89). -/
def Command.assigned (w : Command) : Bool :=
  (opcodeForm (w.extractLsb' 16 8)).isSome

/-- Second check: the `arg` bits the operand form ignores are zero, as the assembler fills them (R92). The block itself accepts
any value there (R88). -/
def Command.ignoredBitsZero (w : Command) : Bool :=
  match opcodeForm (w.extractLsb' 16 8) with
  | some f => w.extractLsb' 0 16 &&& f.ignored == 0
  | none => true

/-- A word an assembler emits. -/
def Command.wellFormed (w : Command) : Bool :=
  w.assigned && w.ignoredBitsZero

end Sys2Proof
end

