-- ==== Sys2Proof/Decode.lean ====
section
/-! DEFINITION. The command decoder, total on all 2^24 words, and the encoder (30_encoding.md R81, R84 to R88). The decoder is
written from R87's table, the encoder from R85's groups and R86's index numbers; that they agree is a statement. -/

namespace Sys2Proof

/-- Why a word is rejected: its opcode is one of the 209 reserved values of R89. -/
inductive DecodeError where
  | reservedOpcode (op : Byte)
  deriving DecidableEq, Repr

/-- `op[23:16]` (R81). -/
def opField (w : Command) : Byte := w.extractLsb' 16 8

/-- `arg[15:0]` (R81). -/
def argField (w : Command) : Half := w.extractLsb' 0 16

/-- Form `v1` (R88): `arg[0]`. -/
def formV1 (arg : Half) : Bit := arg.extractLsb' 0 1

/-- Form `v2` (R88): `arg[1:0]`. -/
def formV2 (arg : Half) : ColourIndex := arg.extractLsb' 0 2

/-- Form `v8` (R88): `arg[7:0]`. -/
def formV8 (arg : Half) : Byte := arg.extractLsb' 0 8

/-- Form `v16` (R88): `arg[15:0]`. -/
def formV16 (arg : Half) : Half := arg

/-- Form `hi:lo` (R88), the upper byte: `arg[15:8]`. -/
def formHi (arg : Half) : Byte := arg.extractLsb' 8 8

/-- Form `hi:lo` (R88), the lower byte: `arg[7:0]`. -/
def formLo (arg : Half) : Byte := arg.extractLsb' 0 8

/-- The opcode map of R87: the operation an opcode selects, with its operand assembled from `arg` (R88). -/
def decodeOp (op : Nat) (arg : Half) : Option Instr :=
  match op with
  | 0x00 => some .rfNew
  | 0x10 => some .getA
  | 0x11 => some .getB
  | 0x12 => some .getC
  | 0x13 => some .getD
  | 0x14 => some .getE
  | 0x15 => some .getH
  | 0x16 => some .getL
  | 0x17 => some .getF
  | 0x20 => some (.setA (formV8 arg))
  | 0x21 => some (.setB (formV8 arg))
  | 0x22 => some (.setC (formV8 arg))
  | 0x23 => some (.setD (formV8 arg))
  | 0x24 => some (.setE (formV8 arg))
  | 0x25 => some (.setH (formV8 arg))
  | 0x26 => some (.setL (formV8 arg))
  | 0x27 => some (.setF (formV8 arg))
  | 0x30 => some .getBC
  | 0x31 => some .getDE
  | 0x32 => some .getHL
  | 0x33 => some .getAF
  | 0x34 => some .getSP
  | 0x35 => some .getPC
  | 0x40 => some (.setBC (formV16 arg))
  | 0x41 => some (.setDE (formV16 arg))
  | 0x42 => some (.setHL (formV16 arg))
  | 0x43 => some (.setAF (formV16 arg))
  | 0x44 => some (.setSP (formV16 arg))
  | 0x45 => some (.setPC (formV16 arg))
  | 0x50 => some .getZero
  | 0x51 => some .getSubtract
  | 0x52 => some .getHalfCarry
  | 0x53 => some .getCarry
  | 0x54 => some .getIme
  | 0x60 => some (.setZero (formV1 arg))
  | 0x61 => some (.setSubtract (formV1 arg))
  | 0x62 => some (.setHalfCarry (formV1 arg))
  | 0x63 => some (.setCarry (formV1 arg))
  | 0x64 => some (.setIme (formV1 arg))
  | 0x80 => some .getLcdc
  | 0x81 => some .getStat
  | 0x82 => some (.setLcdc (formV8 arg))
  | 0x83 => some (.setStat (formV8 arg))
  | 0x88 => some (.pxIlv (formHi arg) (formLo arg))
  | 0x89 => some (.pxTaddr (formV16 arg))
  | 0x8A => some (.pxPal (formV2 arg))
  | 0x8F => some .pxRender
  | _ => none

/-- The decoder (R84 steps 2 and 3): look `op` up in R87's table, reject a reserved opcode by name. -/
def decode (w : Command) : Except DecodeError Instr :=
  match decodeOp (opField w).toNat (argField w) with
  | some i => .ok i
  | none => .error (.reservedOpcode (opField w))

/-- Names of the 8-bit fields in group 1 and 2 opcodes (R85, R86). -/
inductive FieldName where
  | a | b | c | d | e | h | l | f
  deriving DecidableEq, Repr

/-- Field numbers of R86 (and R22). -/
def FieldName.number : FieldName → BitVec 4
  | .a => 0
  | .b => 1
  | .c => 2
  | .d => 3
  | .e => 4
  | .h => 5
  | .l => 6
  | .f => 7

/-- Names of the 16-bit views and fields in group 3 and 4 opcodes (R85, R86). -/
inductive WideName where
  | bc | de | hl | af | sp | pc
  deriving DecidableEq, Repr

/-- Wide numbers of R86. -/
def WideName.number : WideName → BitVec 4
  | .bc => 0
  | .de => 1
  | .hl => 2
  | .af => 3
  | .sp => 4
  | .pc => 5

/-- Names of the 1-bit cells in group 5 and 6 opcodes (R85, R86). -/
inductive BitName where
  | zero | subtract | halfCarry | carry | ime
  deriving DecidableEq, Repr

/-- Bit numbers of R86. -/
def BitName.number : BitName → BitVec 4
  | .zero => 0
  | .subtract => 1
  | .halfCarry => 2
  | .carry => 3
  | .ime => 4

/-- An opcode from its group and index nibbles (R81, R85). -/
def opcode (group index : BitVec 4) : Byte := group ++ index

/-- Group 1 of R85: read an 8-bit field. -/
def opReadField (n : FieldName) : Byte := opcode 0x1 n.number

/-- Group 2 of R85: write an 8-bit field. -/
def opWriteField (n : FieldName) : Byte := opcode 0x2 n.number

/-- Group 3 of R85: read a 16-bit view or field. -/
def opReadWide (n : WideName) : Byte := opcode 0x3 n.number

/-- Group 4 of R85: write a 16-bit view or field. -/
def opWriteWide (n : WideName) : Byte := opcode 0x4 n.number

/-- Group 5 of R85: read a 1-bit cell. -/
def opReadBit (n : BitName) : Byte := opcode 0x5 n.number

/-- Group 6 of R85: write a 1-bit cell. -/
def opWriteBit (n : BitName) : Byte := opcode 0x6 n.number

/-- Group 8 of R85: the pixel decoder. -/
def opPixel (index : BitVec 4) : Byte := opcode 0x8 index

/-- The opcode of an operation. -/
def Instr.opcode : Instr → Byte
  | .rfNew => Sys2Proof.opcode 0x0 0
  | .getA => opReadField .a
  | .getB => opReadField .b
  | .getC => opReadField .c
  | .getD => opReadField .d
  | .getE => opReadField .e
  | .getH => opReadField .h
  | .getL => opReadField .l
  | .getF => opReadField .f
  | .setA _ => opWriteField .a
  | .setB _ => opWriteField .b
  | .setC _ => opWriteField .c
  | .setD _ => opWriteField .d
  | .setE _ => opWriteField .e
  | .setH _ => opWriteField .h
  | .setL _ => opWriteField .l
  | .setF _ => opWriteField .f
  | .getBC => opReadWide .bc
  | .getDE => opReadWide .de
  | .getHL => opReadWide .hl
  | .getAF => opReadWide .af
  | .getSP => opReadWide .sp
  | .getPC => opReadWide .pc
  | .setBC _ => opWriteWide .bc
  | .setDE _ => opWriteWide .de
  | .setHL _ => opWriteWide .hl
  | .setAF _ => opWriteWide .af
  | .setSP _ => opWriteWide .sp
  | .setPC _ => opWriteWide .pc
  | .getZero => opReadBit .zero
  | .getSubtract => opReadBit .subtract
  | .getHalfCarry => opReadBit .halfCarry
  | .getCarry => opReadBit .carry
  | .getIme => opReadBit .ime
  | .setZero _ => opWriteBit .zero
  | .setSubtract _ => opWriteBit .subtract
  | .setHalfCarry _ => opWriteBit .halfCarry
  | .setCarry _ => opWriteBit .carry
  | .setIme _ => opWriteBit .ime
  | .getLcdc => opPixel 0x0
  | .getStat => opPixel 0x1
  | .setLcdc _ => opPixel 0x2
  | .setStat _ => opPixel 0x3
  | .pxIlv _ _ => opPixel 0x8
  | .pxTaddr _ => opPixel 0x9
  | .pxPal _ => opPixel 0xA
  | .pxRender => opPixel 0xF

/-- The operand field of an operation, ignored bits zero (R88, R92). -/
def Instr.arg : Instr → Half
  | .rfNew => 0
  | .getA | .getB | .getC | .getD | .getE | .getH | .getL | .getF => 0
  | .setA v | .setB v | .setC v | .setD v | .setE v | .setH v | .setL v | .setF v => v.setWidth 16
  | .getBC | .getDE | .getHL | .getAF | .getSP | .getPC => 0
  | .setBC v | .setDE v | .setHL v | .setAF v | .setSP v | .setPC v => v
  | .getZero | .getSubtract | .getHalfCarry | .getCarry | .getIme => 0
  | .setZero v | .setSubtract v | .setHalfCarry v | .setCarry v | .setIme v => v.setWidth 16
  | .getLcdc | .getStat => 0
  | .setLcdc v | .setStat v => v.setWidth 16
  | .pxIlv hi lo => hi ++ lo
  | .pxTaddr off => off
  | .pxPal ix => ix.setWidth 16
  | .pxRender => 0

/-- The encoder: the 24-bit command word of an operation. -/
def encode (i : Instr) : Command := i.opcode ++ i.arg

/-- What the decoder reads from a table row's word: bit 0 is the least significant bit of the 24-bit command, bits at and above
`nbits` are zero. -/
def decodeTableWord (nbits w : Nat) : Option Instr :=
  match decode (BitVec.ofNat 24 (w % 2 ^ nbits)) with
  | .ok i => some i
  | .error _ => none

/-- The mnemonic of each operation (R87, second column), for the assembler syntax of R92. -/
def Instr.mnemonic : Instr → String
  | .rfNew => "RF.NEW"
  | .getA => "GET.A"
  | .getB => "GET.B"
  | .getC => "GET.C"
  | .getD => "GET.D"
  | .getE => "GET.E"
  | .getH => "GET.H"
  | .getL => "GET.L"
  | .getF => "GET.F"
  | .setA _ => "SET.A"
  | .setB _ => "SET.B"
  | .setC _ => "SET.C"
  | .setD _ => "SET.D"
  | .setE _ => "SET.E"
  | .setH _ => "SET.H"
  | .setL _ => "SET.L"
  | .setF _ => "SET.F"
  | .getBC => "GET.BC"
  | .getDE => "GET.DE"
  | .getHL => "GET.HL"
  | .getAF => "GET.AF"
  | .getSP => "GET.SP"
  | .getPC => "GET.PC"
  | .setBC _ => "SET.BC"
  | .setDE _ => "SET.DE"
  | .setHL _ => "SET.HL"
  | .setAF _ => "SET.AF"
  | .setSP _ => "SET.SP"
  | .setPC _ => "SET.PC"
  | .getZero => "GET.ZERO"
  | .getSubtract => "GET.SUBTRACT"
  | .getHalfCarry => "GET.HALF_CARRY"
  | .getCarry => "GET.CARRY"
  | .getIme => "GET.IME"
  | .setZero _ => "SET.ZERO"
  | .setSubtract _ => "SET.SUBTRACT"
  | .setHalfCarry _ => "SET.HALF_CARRY"
  | .setCarry _ => "SET.CARRY"
  | .setIme _ => "SET.IME"
  | .getLcdc => "GET.LCDC"
  | .getStat => "GET.STAT"
  | .setLcdc _ => "SET.LCDC"
  | .setStat _ => "SET.STAT"
  | .pxIlv _ _ => "PX.ILV"
  | .pxTaddr _ => "PX.TADDR"
  | .pxPal _ => "PX.PAL"
  | .pxRender => "PX.RENDER"

/-- The literals an assembler line writes after the mnemonic (R92): none, one, or `hi, lo`. -/
def Instr.literals : Instr → List Nat
  | .rfNew => []
  | .getA | .getB | .getC | .getD | .getE | .getH | .getL | .getF => []
  | .setA v | .setB v | .setC v | .setD v | .setE v | .setH v | .setL v | .setF v => [v.toNat]
  | .getBC | .getDE | .getHL | .getAF | .getSP | .getPC => []
  | .setBC v | .setDE v | .setHL v | .setAF v | .setSP v | .setPC v => [v.toNat]
  | .getZero | .getSubtract | .getHalfCarry | .getCarry | .getIme => []
  | .setZero v | .setSubtract v | .setHalfCarry v | .setCarry v | .setIme v => [v.toNat]
  | .getLcdc | .getStat => []
  | .setLcdc v | .setStat v => [v.toNat]
  | .pxIlv hi lo => [hi.toNat, lo.toNat]
  | .pxTaddr off => [off.toNat]
  | .pxPal ix => [ix.toNat]
  | .pxRender => []

end Sys2Proof
end

