-- ==== Sys2Proof/Config.lean ====
section
/-! DEFINITION. The OPEN parameters of 00_scope.md R7 that are constant for an instance, as opaque constants: no proof can see a
value of one, so a claim about one instance holds for every value ("A claim about the block holds for every value of an `OPEN`
parameter"). DESIGN CHOICE (log 17, unsafe for claims that compare two instances): one value of each constant serves every `State`,
where R258 gives each instance its own `Mem` and `TileIndex`. HEADLESS and SURFACE_OK are arguments of reset, `Present`'s answer is state of the environment
(Machine/State.lean). -/

namespace Sys2Proof.Config

/-- DESIGN CHOICE (log 4, safe for one instance; log 17 for two). `PALETTE[0]` to `PALETTE[3]` (R7, R199): four 32-bit values the source does not give. -/
opaque palette : ColourIndex → Word

/-- DESIGN CHOICE (log 3, safe but for claims that compare two resets; log 17 for two instances). `LCDC_RESET` (R7, R34): "A model
must not assume zero". -/
opaque lcdcReset : Byte

/-- DESIGN CHOICE (log 3, safe but for claims that compare two resets; log 17 for two instances). `STAT_RESET` (R7, R34). -/
opaque statReset : Byte

/-- DESIGN CHOICE (log 5, safe for one instance; log 17 for two). `Mem` (R7, R54, U6): what the memory collaborator answers at an address whose byte no input of
the environment has changed. An arbitrary total function. -/
opaque mem : Half → Byte

/-- DESIGN CHOICE (log 6, safe for one instance; log 17 for two). `TileIndex` (R7, R58, U10): what the tile index port answers for a cell no input of the
environment has changed. An arbitrary total function. -/
opaque tileIndex : CellOffset → Byte

end Sys2Proof.Config
end

