-- ==== Sys2Proof/Machine/State.lean ====
section
/-! DEFINITION. The state of gamboye CORE (10_state.md R20), the environment a step reads (00_scope.md R7, 70_reset_and_hazards.md
R296), what a step shows to the outside (R295), and reset (R270). -/

namespace Sys2Proof.Machine

/-- The four independent flag bits of R24. The packed byte `F` has no storage. -/
structure Flags where
  zero : Bit
  subtract : Bit
  halfCarry : Bit
  carry : Bit
  deriving DecidableEq, Repr

/-- The register file of R20 to R29: seven 8-bit fields, the flags, `sp`, `pc`, `ime`. Pair views have no storage (R23). -/
structure RegFile where
  a : Byte
  b : Byte
  c : Byte
  d : Byte
  e : Byte
  h : Byte
  l : Byte
  fl : Flags
  sp : Half
  pc : Half
  ime : Bit
  deriving DecidableEq, Repr

/-- The pixel decoder's stored cells of R20, R30, R31, R35. -/
structure PixelDecoder where
  lcdc : Byte
  stat : Byte
  headless : Bool
  deriving DecidableEq, Repr

/-- A sparse store: (key, value) pairs over what an unlisted key reads as, in the canonical form of `Memory.wf`. -/
abbrev Memory := List Host.Cell

/-- The canonical form: keys strictly rising and below `size`, no entry equal to what an unlisted key reads as. `base` is what
unlisted keys read as. -/
def Memory.wf (base : Nat → Byte) (size : Nat) : Memory → Bool
  | [] => true
  | (k, v) :: rest =>
    decide (k < size) && decide (v ≠ base k) && rest.all (fun c => decide (k < c.1)) && Memory.wf base size rest

/-- What an address no input has changed reads as: the OPEN parameter `Mem` of R7, R54. DESIGN CHOICE (log 5, safe for one instance;
log 17, unsafe for claims that compare two, since `Config.mem` serves every `State`). -/
def memBase (k : Nat) : Byte := Config.mem (BitVec.ofNat 16 k)

/-- What a map cell no input has changed reads as: the OPEN parameter `TileIndex` of R7, R58. DESIGN CHOICE (log 6, safe for one
instance; log 17, unsafe for claims that compare two, since `Config.tileIndex` serves every `State`). -/
def tileBase (k : Nat) : Byte := Config.tileIndex (BitVec.ofNat 10 k)

/-- What the presentation surface does with the next `Present` call (R59, R60): it answers `Ok`, it answers `Err`, or it never
answers ("The source gives no bound on the wait"). DESIGN CHOICE (log 7, log 8). -/
inductive PresentAnswer where
  | ok
  | err
  | never
  deriving DecidableEq, Repr

/-- What the owner and the environment can do between two steps (R296). DESIGN CHOICE (log 1, safe). -/
inductive Input where
  /-- The owner sends a command word (R80). -/
  | command (w : Command)
  /-- The owner resets the block under the straps HEADLESS and SURFACE_OK (R270). -/
  | reset (headless surfaceOk : Bool)
  /-- The environment changes the byte the memory port returns for an address (R55). -/
  | memory (addr : Half) (v : Byte)
  /-- The environment changes the tile index of a map cell (R58, R296). -/
  | tile (offset : CellOffset) (v : Byte)
  /-- The environment chooses the answer of the next `Present` calls (R59). -/
  | surface (answer : PresentAnswer)
  deriving DecidableEq, Repr

/-- What stands outside the block and a step reads: the two read ports' contents, the surface, and the inputs to come, oldest
first. -/
structure Environment where
  mem : Memory
  tiles : Memory
  surface : PresentAnswer
  inputs : List Input
  deriving DecidableEq, Repr

/-- Status codes of R83. Codes 4 to 15 are never produced (U15) and have no constructor. -/
inductive Status where
  | ok
  | illegalOp
  | presentFail
  | halted
  deriving DecidableEq, Repr

/-- A response (R82): a status and 32 bits of data. -/
structure Response where
  status : Status
  data : Word
  deriving DecidableEq, Repr

/-- A frame (R59, R212): 256 by 256 colour cells in flat-index order. -/
abbrev Frame := Vector Word 65536

/-- One call of a port of the block (R50, R52, R58, R59). -/
inductive PortCall where
  /-- One query `TileIndex(offset)`. -/
  | tileIndex (offset : CellOffset)
  /-- One call `MemRead(addr, n)`. -/
  | memRead (addr : Half) (n : Nat)
  /-- One call `Present(fb, w, h)`. -/
  | present (fb : Frame) (w h : Nat)
  deriving DecidableEq, Repr

/-- What the last step showed to the outside (R295): its response, none if it performed no command, and its port calls in order.
DESIGN CHOICE (log 9, safe): the model's own fields. -/
structure Output where
  rsp : Option Response
  calls : List PortCall
  deriving DecidableEq, Repr

/-- The whole state: the two parts of R2, the `halted` bit of R38, the environment, and the last step's output. -/
structure State where
  rf : RegFile
  px : PixelDecoder
  halted : Bool
  env : Environment
  out : Output
  deriving DecidableEq, Repr

/-- The reasons a step can stop with a fault. -/
inductive Fault where
  /-- Raised by a non-headless PX.RENDER whose `Present` call is never answered: the command does not end (R60, R283). A stuck
  state, not an effect of the block. Safe (log 8). -/
  | presentNeverAnswers
  deriving DecidableEq, Repr

/-- The reasons a step can be refused. -/
inductive Refusal where
  /-- Raised by an arm of `exec` whose instruction has no meaning yet; no arm of this model raises it. Safe. -/
  | notModelled (mnemonic : String)
  deriving DecidableEq, Repr

/-- Reset under the straps HEADLESS and SURFACE_OK (R270, R271), with the environment of a machine nothing has happened to: the
read ports at their OPEN parameters, no input pending, a surface that answers `Ok` (log 1, 5, 6, 7). DESIGN CHOICE (log 17, unsafe
for claims that compare two instances): every state it gives reads the same `Mem` and `TileIndex`, which R258 makes each instance's
own. -/
def State.resetWith (headless surfaceOk : Bool) : State :=
  { rf :=
      { a := 0x01, b := 0x00, c := 0x13, d := 0x00, e := 0xD8, h := 0x01, l := 0x4D
        fl := { zero := 1, subtract := 0, halfCarry := 1, carry := 1 }
        sp := 0xFFFE, pc := 0x0100, ime := 1 }
    px := { lcdc := Config.lcdcReset, stat := Config.statReset, headless := headless }
    halted := !headless && !surfaceOk
    env := { mem := [], tiles := [], surface := .ok, inputs := [] }
    out := { rsp := none, calls := [] } }

/-- The machine right after reset. DESIGN CHOICE (log 2, unsafe): the straps are HEADLESS = 0 and SURFACE_OK = 1, an instance
with a presentation surface that came up. -/
def State.reset : State := State.resetWith false true

end Sys2Proof.Machine
end

