-- ==== Sys2Proof/Machine/Flags.lean ====
section
/-! DEFINITION. The packed flag byte (42_flags.md R151, R152), the one place where flags are packed and unpacked. No command of
the block computes a flag from a result (10_state.md R25), so there is no other flag computation. -/

namespace Sys2Proof.Machine

/-- `PackFlags()` of R151: `zero` at bit 7, `subtract` at bit 6, `half_carry` at bit 5, `carry` at bit 4, bits 3:0 zero. -/
def packFlags (fl : Flags) : Byte :=
  fl.zero ++ fl.subtract ++ fl.halfCarry ++ fl.carry ++ 0#4

/-- `UnpackFlags(v)` of R152: the flags from `v[7:4]`; `v[3:0]` is stored nowhere. -/
def unpackFlags (v : Byte) : Flags :=
  { zero := v.extractLsb' 7 1
    subtract := v.extractLsb' 6 1
    halfCarry := v.extractLsb' 5 1
    carry := v.extractLsb' 4 1 }

end Sys2Proof.Machine
end

