-- ==== Sys2Proof/Machine/Operands.lean ====
section
/-! DEFINITION. The pure functions on operand values: extension to `data` (00_scope.md R9), pair views (41_pair_views.md R130,
10_state.md R23), tile addresses (43_pixel_primitives.md R195 to R197), the interleave (R192) and the palette (R199). -/

namespace Sys2Proof.Machine

/-- `zext_32(v)` of R9. -/
def zext32 {n : Nat} (v : BitVec n) : Word := v.setWidth 32

/-- `Compose(hi8, lo8)` of R130: `hi8 * 256 + lo8`. -/
def compose (hi8 lo8 : Byte) : Half := hi8 ++ lo8

/-- The first part of `Split(v16)` of R130: `v16[15:8]`. -/
def splitHi (v : Half) : Byte := v.extractLsb' 8 8

/-- The second part of `Split(v16)` of R130: `v16[7:0]`. -/
def splitLo (v : Half) : Byte := v.extractLsb' 0 8

/-- The view `BC = {b, c}` (R23). -/
def RegFile.bc (rf : RegFile) : Half := compose rf.b rf.c

/-- The view `DE = {d, e}` (R23). -/
def RegFile.de (rf : RegFile) : Half := compose rf.d rf.e

/-- The view `HL = {h, l}` (R23). -/
def RegFile.hl (rf : RegFile) : Half := compose rf.h rf.l

/-- The packed flag byte `F` (R24). -/
def RegFile.f (rf : RegFile) : Byte := packFlags rf.fl

/-- The view `AF = {a, F}` (R23). -/
def RegFile.af (rf : RegFile) : Half := compose rf.a rf.f

/-- `Mode()` of R195: `lcdc[4]`, 1 for unsigned, 0 for signed tile indices. -/
def addressingMode (lcdc : Byte) : Bit := lcdc.extractLsb' 4 1

/-- `Base()` of R195. -/
def tileDataBase (mode : Bit) : Half := if mode = 1 then 0x8000 else 0x9000

/-- `TileAddr(off)` of R196: the sum modulo 2^16, in both modes. -/
def tileAddr (mode : Bit) (off : Half) : Half := tileDataBase mode + off

/-- `TileAddrIdx(idx)` of R197: the index zero-extended in unsigned mode, sign-extended in signed mode, not scaled. -/
def tileAddrIdx (mode : Bit) (idx : Byte) : Half :=
  if mode = 1 then tileAddr mode (idx.setWidth 16) else tileAddr mode (idx.signExtend 16)

/-- `Interleave(hi, lo)` of R192: `index[i] = {hi[7-i], lo[7-i]}`, leftmost pixel first. -/
def interleave (hi lo : Byte) : Vector ColourIndex 8 :=
  Vector.ofFn fun i : Fin 8 => hi.extractLsb' (7 - i) 1 ++ lo.extractLsb' (7 - i) 1

/-- The packing of R193: `{ix[0], ..., ix[7]}`, `index[0]` in bits 15:14. -/
def packIndices (ix : Vector ColourIndex 8) : Half :=
  ix[0] ++ ix[1] ++ ix[2] ++ ix[3] ++ ix[4] ++ ix[5] ++ ix[6] ++ ix[7]

/-- `Palette(ix)` of R199: `PALETTE[ix]`. -/
def palette (ix : ColourIndex) : Word := Config.palette ix

end Sys2Proof.Machine
end

