-- ==== Sys2Proof/Machine/Ops.lean ====
section
/-! DEFINITION. The shared operations: the ports (20_memory.md), the responses (30_encoding.md R82 to R84), the two failures and
the halted state (60_exceptions.md), reset (70_reset_and_hazards.md R270), the inputs of the environment (R296) and the debug port
(R260). -/

namespace Sys2Proof.Machine

/-! ### Sparse stores -/

/-- The value listed for a key, the first one if there are several. -/
def Memory.find? : Memory → Nat → Option Byte
  | [], _ => none
  | (k', v) :: rest, k => if k' = k then some v else Memory.find? rest k

/-- Read a key: what is listed, else what an unlisted key reads as. -/
def Memory.read (base : Nat → Byte) (m : Memory) (k : Nat) : Byte :=
  (m.find? k).getD (base k)

/-- Write a key, keeping the canonical form: writing what an unlisted key reads as removes the entry. -/
def Memory.write (base : Nat → Byte) : Memory → Nat → Byte → Memory
  | [], k, v => if v = base k then [] else [(k, v)]
  | (k', v') :: rest, k, v =>
    if k < k' then
      if v = base k then (k', v') :: rest else (k, v) :: (k', v') :: rest
    else if k = k' then
      if v = base k then rest else (k, v) :: rest
    else (k', v') :: Memory.write base rest k v

/-! ### The read ports -/

/-- `Mem(addr)` of R54: the byte at an address; total, no side effect. -/
def State.memByte (s : State) (addr : Half) : Byte :=
  Memory.read memBase s.env.mem addr.toNat

/-- `MemRead(addr, n)` of R52: `n` bytes from `addr` up, addresses modulo 2^16, the byte at `addr` first. -/
def State.memRead (s : State) (addr : Half) (n : Nat) : List Byte :=
  (List.range n).map fun k => s.memByte (addr + BitVec.ofNat 16 k)

/-- `TileIndex(offset)` of R58. -/
def State.tileIndex (s : State) (offset : CellOffset) : Byte :=
  Memory.read tileBase s.env.tiles offset.toNat

/-- Both stores in canonical form. -/
def State.storesCanonical (s : State) : Bool :=
  Memory.wf memBase 65536 s.env.mem && Memory.wf tileBase 1024 s.env.tiles

/-! ### Responses -/

/-- Deliver a response and the port calls of the command that made it (R82). -/
def State.respond (s : State) (st : Status) (data : Word) (calls : List PortCall) : State :=
  { s with out := { rsp := some { status := st, data := data }, calls := calls } }

/-- A step that performs no command shows no response and no port call (log 9). -/
def State.quiet (s : State) : State :=
  { s with out := { rsp := none, calls := [] } }

/-- Status codes of R83. -/
def Status.code : Status → BitVec 4
  | .ok => 0
  | .illegalOp => 1
  | .presentFail => 2
  | .halted => 3

/-- The 36-bit response word of R82: `status[35:32]`, `data[31:0]`. -/
def Response.word (r : Response) : BitVec 36 := r.status.code ++ r.data

/-- R84 step 1, R244: while `halted = 1` a command is answered `{HALTED, 0}`, changes nothing and touches no port; otherwise it is
performed. -/
def whenRunning (s : State) (performed : Host.Outcome State Fault Refusal) : Host.Outcome State Fault Refusal :=
  if s.halted then .next (s.respond .halted 0 []) else performed

/-- The end of an operation with a result and no port call: `{OK, data}` (R84 step 3). -/
def answer (s : State) (data : Word) : Host.Outcome State Fault Refusal :=
  .next (s.respond .ok data [])

/-- The end of an operation with no result and no port call: `{OK, 0}`. -/
def done (s : State) : Host.Outcome State Fault Refusal :=
  .next (s.respond .ok 0 [])

/-- A read command: gated by `halted`, answers a value, changes no state (R100, R130, R150, R190). -/
def readCommand (s : State) (data : Word) : Host.Outcome State Fault Refusal :=
  whenRunning s (answer s data)

/-- A write command of the register file: gated by `halted`, replaces the register file, answers `{OK, 0}`. -/
def writeRegFile (s : State) (rf : RegFile) : Host.Outcome State Fault Refusal :=
  whenRunning s (done { s with rf := rf })

/-- A write command of the pixel decoder: gated by `halted`, replaces its cells, answers `{OK, 0}`. -/
def writePixel (s : State) (px : PixelDecoder) : Host.Outcome State Fault Refusal :=
  whenRunning s (done { s with px := px })

/-- R84 step 2, R89: a reserved opcode is answered `{ILLEGAL_OP, 0}`, unless the instance is halted (R247). -/
def illegalOp (s : State) : Host.Outcome State Fault Refusal :=
  whenRunning s (.next (s.respond .illegalOp 0 []))

/-! ### Failures -/

/-- The whole effect of either fatal failure on the stored cells (R240, R245): `halted <- 1`. Nothing is saved and control goes
nowhere; there is no return from it but reset (R246). -/
def State.failFatally (s : State) : State := { s with halted := true }

/-- `raise PresentFailure` (R242): `halted <- 1`, response `{PRESENT_FAIL, 0}`, no other state changes. -/
def raisePresentFailure (s : State) (calls : List PortCall) : State :=
  s.failFatally.respond .presentFail 0 calls

/-- The hand-over of a frame and what follows its answer (R59, R216, R242, R283). `before` are the port calls the command made so
far; the one `Present(fb, 256, 256)` call comes after them (R72). -/
def presentFrame (s : State) (before : List PortCall) (fb : Frame) : Host.Outcome State Fault Refusal :=
  match s.env.surface with
  | .ok => .next (s.respond .ok 0 (before ++ [.present fb 256 256]))
  | .err => .next (raisePresentFailure s (before ++ [.present fb 256 256]))
  | .never => .fault .presentNeverAnswers

/-! ### Reset and the environment's inputs -/

/-- The register-file writes of R101 and R270, the post-boot snapshot of R33. -/
def loadSnapshot (rf : RegFile) : RegFile :=
  { rf with
    a := 0x01, b := 0x00, c := 0x13, d := 0x00, e := 0xD8, h := 0x01, l := 0x4D
    sp := 0xFFFE, pc := 0x0100, ime := 1
    fl := { rf.fl with zero := 1, subtract := 0, halfCarry := 1, carry := 1 } }

/-- Reset between commands (R270, R296): every cell of R20 is assigned; a start-up failure (R241) leaves the instance halted. The
environment is not the block's and stays (log 11). -/
def resetBlock (headless surfaceOk : Bool) (s : State) : State :=
  let s := { s with
    rf := loadSnapshot s.rf
    px := { lcdc := Config.lcdcReset, stat := Config.statReset, headless := headless }
    halted := false }
  (if !headless && !surfaceOk then s.failFatally else s).quiet

/-- The environment changes a memory byte between commands (R55, R296). -/
def changeMemory (addr : Half) (v : Byte) (s : State) : State :=
  State.quiet { s with env.mem := Memory.write memBase s.env.mem addr.toNat v }

/-- The environment changes a map cell's tile index between commands (R58, R296). -/
def changeTile (offset : CellOffset) (v : Byte) (s : State) : State :=
  State.quiet { s with env.tiles := Memory.write tileBase s.env.tiles offset.toNat v }

/-- The environment chooses what the surface answers (R59, R296). -/
def changeSurface (answer : PresentAnswer) (s : State) : State :=
  State.quiet { s with env.surface := answer }

/-- The next input and the state that has accepted it, none if the owner and the environment do nothing (R280: one at a time). -/
def acceptInput (s : State) : Option (Input × State) :=
  match s.env.inputs with
  | [] => none
  | i :: rest => some (i, { s with env.inputs := rest })

/-- Put a command in front of the pending inputs: the owner's next command. -/
def sendNext (s : State) (w : Command) : State :=
  { s with env.inputs := .command w :: s.env.inputs }

/-! ### The debug port -/

/-- The debug port's tuple (R260), valid at every instant, also while halted; it shows no pixel decoder state (R261). -/
structure DebugTuple where
  a : Byte
  b : Byte
  c : Byte
  d : Byte
  e : Byte
  h : Byte
  l : Byte
  f : Byte
  sp : Half
  pc : Half
  ime : Bit
  deriving DecidableEq, Repr

/-- What the debug port shows in a state (R260). -/
def State.debugPort (s : State) : DebugTuple :=
  { a := s.rf.a, b := s.rf.b, c := s.rf.c, d := s.rf.d, e := s.rf.e, h := s.rf.h, l := s.rf.l
    f := s.rf.f, sp := s.rf.sp, pc := s.rf.pc, ime := s.rf.ime }

/-- The tuple as one 97-bit value, `a` in the most significant byte and `ime` in bit 0 (R260). -/
def DebugTuple.word (t : DebugTuple) : BitVec 97 :=
  t.a ++ t.b ++ t.c ++ t.d ++ t.e ++ t.h ++ t.l ++ t.f ++ t.sp ++ t.pc ++ t.ime

/-- A hexadecimal digit. -/
def hexDigit (n : Nat) : Char :=
  if n < 10 then Char.ofNat (48 + n) else Char.ofNat (55 + n)

/-- An 8-bit register "as 2-hex-digit `0x` form" (R262). -/
def textByte (v : Byte) : List Char :=
  ['0', 'x', hexDigit (v.toNat / 16), hexDigit (v.toNat % 16)]

/-- A 16-bit field "as 4-hex-digit form" (R262). -/
def textHalf (v : Half) : List Char :=
  ['0', 'x', hexDigit (v.toNat / 4096), hexDigit (v.toNat / 256 % 16), hexDigit (v.toNat / 16 % 16), hexDigit (v.toNat % 16)]

/-- A bit "as `0`/`1`" (R262). -/
def textBit (v : Bit) : Char := if v = 1 then '1' else '0'

/-- The flags byte "as 8-bit binary" (R262). -/
def textBinary (v : Byte) : List Char :=
  (List.range 8).map fun i => textBit (v.extractLsb' (7 - i) 1)

/-- The text of each field of the tuple in R262's radices, in the tuple's order. Labels, separators and the order on a page are
not in the spec (R5, N11). -/
def DebugTuple.texts (t : DebugTuple) : List (List Char) :=
  [textByte t.a, textByte t.b, textByte t.c, textByte t.d, textByte t.e, textByte t.h, textByte t.l, textBinary t.f,
   textHalf t.sp, textHalf t.pc, [textBit t.ime]]

end Sys2Proof.Machine
end

