-- ==== Sys2Proof/Machine/FlagAccess.lean ====
section
/-! DEFINITION. Flag accessors and the packed flag byte (42_flags.md R154 to R163). -/

namespace Sys2Proof.Machine

/-- `GET.ZERO` (R154). -/
def execGetZero (s : State) : Host.Outcome State Fault Refusal := readCommand s (zext32 s.rf.fl.zero)

/-- `GET.SUBTRACT` (R155). -/
def execGetSubtract (s : State) : Host.Outcome State Fault Refusal := readCommand s (zext32 s.rf.fl.subtract)

/-- `GET.HALF_CARRY` (R156): the flag, not register `h`. -/
def execGetHalfCarry (s : State) : Host.Outcome State Fault Refusal := readCommand s (zext32 s.rf.fl.halfCarry)

/-- `GET.CARRY` (R157): the flag, not register `c`. -/
def execGetCarry (s : State) : Host.Outcome State Fault Refusal := readCommand s (zext32 s.rf.fl.carry)

/-- `SET.ZERO v` (R158). -/
def execSetZero (v : Bit) (s : State) : Host.Outcome State Fault Refusal := writeRegFile s { s.rf with fl.zero := v }

/-- `SET.SUBTRACT v` (R159). -/
def execSetSubtract (v : Bit) (s : State) : Host.Outcome State Fault Refusal := writeRegFile s { s.rf with fl.subtract := v }

/-- `SET.HALF_CARRY v` (R160). -/
def execSetHalfCarry (v : Bit) (s : State) : Host.Outcome State Fault Refusal := writeRegFile s { s.rf with fl.halfCarry := v }

/-- `SET.CARRY v` (R161). -/
def execSetCarry (v : Bit) (s : State) : Host.Outcome State Fault Refusal := writeRegFile s { s.rf with fl.carry := v }

/-- `GET.F` (R162), the source's `as_byte()`. -/
def execGetF (s : State) : Host.Outcome State Fault Refusal := readCommand s (zext32 s.rf.f)

/-- `SET.F v` (R163), the source's `set_bits(u8)`: `v[3:0]` is dropped. -/
def execSetF (v : Byte) (s : State) : Host.Outcome State Fault Refusal := writeRegFile s { s.rf with fl := unpackFlags v }

end Sys2Proof.Machine
end

