-- ==== Sys2Proof/Machine/PairViews.lean ====
section
/-! DEFINITION. The 16-bit pair views (41_pair_views.md R131 to R138). -/

namespace Sys2Proof.Machine

/-- `GET.BC` (R131). -/
def execGetBC (s : State) : Host.Outcome State Fault Refusal := readCommand s (zext32 s.rf.bc)

/-- `GET.DE` (R132). -/
def execGetDE (s : State) : Host.Outcome State Fault Refusal := readCommand s (zext32 s.rf.de)

/-- `GET.HL` (R133). -/
def execGetHL (s : State) : Host.Outcome State Fault Refusal := readCommand s (zext32 s.rf.hl)

/-- `GET.AF` (R134): the low byte is the packed flag byte. -/
def execGetAF (s : State) : Host.Outcome State Fault Refusal := readCommand s (zext32 s.rf.af)

/-- `SET.BC v` (R135). -/
def execSetBC (v : Half) (s : State) : Host.Outcome State Fault Refusal :=
  writeRegFile s { s.rf with b := splitHi v, c := splitLo v }

/-- `SET.DE v` (R136). -/
def execSetDE (v : Half) (s : State) : Host.Outcome State Fault Refusal :=
  writeRegFile s { s.rf with d := splitHi v, e := splitLo v }

/-- `SET.HL v` (R137). -/
def execSetHL (v : Half) (s : State) : Host.Outcome State Fault Refusal :=
  writeRegFile s { s.rf with h := splitHi v, l := splitLo v }

/-- `SET.AF v` (R138): `v[3:0]` is discarded. -/
def execSetAF (v : Half) (s : State) : Host.Outcome State Fault Refusal :=
  writeRegFile s { s.rf with a := splitHi v, fl := unpackFlags (splitLo v) }

end Sys2Proof.Machine
end

