-- ==== Sys2Proof/Machine/PixelPrimitives.lean ====
section
/-! DEFINITION. The control bytes and the pixel primitives (43_pixel_primitives.md R180 to R183, R193, R198, R200). -/

namespace Sys2Proof.Machine

/-- `GET.LCDC` (R180). -/
def execGetLcdc (s : State) : Host.Outcome State Fault Refusal := readCommand s (zext32 s.px.lcdc)

/-- `GET.STAT` (R181). -/
def execGetStat (s : State) : Host.Outcome State Fault Refusal := readCommand s (zext32 s.px.stat)

/-- `SET.LCDC v` (R182): all eight bits are stored. -/
def execSetLcdc (v : Byte) (s : State) : Host.Outcome State Fault Refusal := writePixel s { s.px with lcdc := v }

/-- `SET.STAT v` (R183): all eight bits are stored. -/
def execSetStat (v : Byte) (s : State) : Host.Outcome State Fault Refusal := writePixel s { s.px with stat := v }

/-- `PX.ILV hi, lo` (R193): reads no state. -/
def execPxIlv (hi lo : Byte) (s : State) : Host.Outcome State Fault Refusal :=
  readCommand s (zext32 (packIndices (interleave hi lo)))

/-- `PX.TADDR off` (R198): reads `lcdc[4]` and nothing else. -/
def execPxTaddr (off : Half) (s : State) : Host.Outcome State Fault Refusal :=
  readCommand s (zext32 (tileAddr (addressingMode s.px.lcdc) off))

/-- `PX.PAL ix` (R200): reads no state. -/
def execPxPal (ix : ColourIndex) (s : State) : Host.Outcome State Fault Refusal :=
  readCommand s (palette ix)

end Sys2Proof.Machine
end

