-- ==== Sys2Proof/Machine/RegisterFile.lean ====
section
/-! DEFINITION. Register file construction and direct field access (40_regfile_fields.md R100 to R121). -/

namespace Sys2Proof.Machine

/-- `RF.NEW` (R101): load the post-boot snapshot; nothing outside the register file changes (R272). -/
def execRfNew (s : State) : Host.Outcome State Fault Refusal := writeRegFile s (loadSnapshot s.rf)

/-- `GET.A` (R102). -/
def execGetA (s : State) : Host.Outcome State Fault Refusal := readCommand s (zext32 s.rf.a)

/-- `GET.B` (R103). -/
def execGetB (s : State) : Host.Outcome State Fault Refusal := readCommand s (zext32 s.rf.b)

/-- `GET.C` (R104): the register, not the flag. -/
def execGetC (s : State) : Host.Outcome State Fault Refusal := readCommand s (zext32 s.rf.c)

/-- `GET.D` (R105). -/
def execGetD (s : State) : Host.Outcome State Fault Refusal := readCommand s (zext32 s.rf.d)

/-- `GET.E` (R106). -/
def execGetE (s : State) : Host.Outcome State Fault Refusal := readCommand s (zext32 s.rf.e)

/-- `GET.H` (R107): the register, not the flag. -/
def execGetH (s : State) : Host.Outcome State Fault Refusal := readCommand s (zext32 s.rf.h)

/-- `GET.L` (R108). -/
def execGetL (s : State) : Host.Outcome State Fault Refusal := readCommand s (zext32 s.rf.l)

/-- `SET.A v` (R109). -/
def execSetA (v : Byte) (s : State) : Host.Outcome State Fault Refusal := writeRegFile s { s.rf with a := v }

/-- `SET.B v` (R110). -/
def execSetB (v : Byte) (s : State) : Host.Outcome State Fault Refusal := writeRegFile s { s.rf with b := v }

/-- `SET.C v` (R111). -/
def execSetC (v : Byte) (s : State) : Host.Outcome State Fault Refusal := writeRegFile s { s.rf with c := v }

/-- `SET.D v` (R112). -/
def execSetD (v : Byte) (s : State) : Host.Outcome State Fault Refusal := writeRegFile s { s.rf with d := v }

/-- `SET.E v` (R113). -/
def execSetE (v : Byte) (s : State) : Host.Outcome State Fault Refusal := writeRegFile s { s.rf with e := v }

/-- `SET.H v` (R114). -/
def execSetH (v : Byte) (s : State) : Host.Outcome State Fault Refusal := writeRegFile s { s.rf with h := v }

/-- `SET.L v` (R115). -/
def execSetL (v : Byte) (s : State) : Host.Outcome State Fault Refusal := writeRegFile s { s.rf with l := v }

/-- `GET.SP` (R116). -/
def execGetSP (s : State) : Host.Outcome State Fault Refusal := readCommand s (zext32 s.rf.sp)

/-- `SET.SP v` (R117): no memory is touched. -/
def execSetSP (v : Half) (s : State) : Host.Outcome State Fault Refusal := writeRegFile s { s.rf with sp := v }

/-- `GET.PC` (R118): reading does not advance `pc`. -/
def execGetPC (s : State) : Host.Outcome State Fault Refusal := readCommand s (zext32 s.rf.pc)

/-- `SET.PC v` (R119): transfers no control. -/
def execSetPC (v : Half) (s : State) : Host.Outcome State Fault Refusal := writeRegFile s { s.rf with pc := v }

/-- `GET.IME` (R120). -/
def execGetIme (s : State) : Host.Outcome State Fault Refusal := readCommand s (zext32 s.rf.ime)

/-- `SET.IME v` (R121): takes effect at once, masks nothing. -/
def execSetIme (v : Bit) (s : State) : Host.Outcome State Fault Refusal := writeRegFile s { s.rf with ime := v }

end Sys2Proof.Machine
end

