-- ==== Sys2Proof/Machine/Render.lean ====
section
/-! DEFINITION. The render operation (44_render.md R210 to R219), with the placeholders of R218 as they stand: the same two bytes
for all eight rows, flat index `offset + i*8 + j`, unscaled tile address, `x`-major offset. -/

namespace Sys2Proof.Machine

/-- The cells in visiting order (R213): `x` outer, `y` inner, both ascending, `offset = x*32 + y`. -/
def cellOffsets : List Nat :=
  (List.range 32).flatMap fun x => (List.range 32).map fun y => x * 32 + y

/-- The tile address of a cell under the mode `lcdc[4]` (R213, R197). -/
def cellAddr (s : State) (offset : Nat) : Half :=
  tileAddrIdx (addressingMode s.px.lcdc) (s.tileIndex (BitVec.ofNat 10 offset))

/-- The colour indices of one row of a cell (R214): the first byte read is `hi`, the second is `lo` (R63). Every row reads the
same address. -/
def rowIndices (s : State) (offset : Nat) : Vector ColourIndex 8 :=
  let bytes := s.memRead (cellAddr s offset) 2
  interleave (bytes.getD 0 0) (bytes.getD 1 0)

/-- The frame writes of one cell in order (R215): rows `i`, then columns `j`, at flat index `offset + i*8 + j`. -/
def cellWrites (s : State) (offset : Nat) : List (Nat × Word) :=
  (List.finRange 8).flatMap fun i : Fin 8 =>
    (List.finRange 8).map fun j : Fin 8 => (offset + i.val * 8 + j.val, palette (rowIndices s offset)[j])

/-- The port calls of one cell in order (R72): one tile query, then eight two-byte reads. -/
def cellCalls (s : State) (offset : Nat) : List PortCall :=
  .tileIndex (BitVec.ofNat 10 offset) :: (List.finRange 8).map fun _ => .memRead (cellAddr s offset) 2

/-- The frame at the start of a render (R212): 65536 cells of zero. -/
def blankFrame : Frame := Vector.replicate 65536 0

/-- Write one frame cell. -/
def writeCell (fb : Frame) (w : Nat × Word) : Frame := fb.setIfInBounds w.1 w.2

/-- The frame a render hands over: all writes in order, on a blank frame, so that a later write wins (R217). -/
def renderFrame (s : State) : Frame :=
  (cellOffsets.flatMap (cellWrites s)).foldl writeCell blankFrame

/-- The port calls of a render before its `Present` call, in order (R72). -/
def renderCalls (s : State) : List PortCall :=
  cellOffsets.flatMap (cellCalls s)

/-- `PX.RENDER` (R210): a no-op when headless (R211), else build the frame and hand it over (R216). -/
def execPxRender (s : State) : Host.Outcome State Fault Refusal :=
  whenRunning s (if s.px.headless then done s else presentFrame s (renderCalls s) (renderFrame s))

end Sys2Proof.Machine
end

