-- ==== Sys2Proof/Machine/Dispatch.lean ====
section
/-! DEFINITION. One arm per operation of the command port (30_encoding.md R87). -/

namespace Sys2Proof.Machine

def exec (i : Instr) (s : State) : Host.Outcome State Fault Refusal :=
  match i with
  | .rfNew => Sys2Proof.Machine.execRfNew s
  | .getA => Sys2Proof.Machine.execGetA s
  | .getB => Sys2Proof.Machine.execGetB s
  | .getC => Sys2Proof.Machine.execGetC s
  | .getD => Sys2Proof.Machine.execGetD s
  | .getE => Sys2Proof.Machine.execGetE s
  | .getH => Sys2Proof.Machine.execGetH s
  | .getL => Sys2Proof.Machine.execGetL s
  | .getF => Sys2Proof.Machine.execGetF s
  | .setA v => Sys2Proof.Machine.execSetA v s
  | .setB v => Sys2Proof.Machine.execSetB v s
  | .setC v => Sys2Proof.Machine.execSetC v s
  | .setD v => Sys2Proof.Machine.execSetD v s
  | .setE v => Sys2Proof.Machine.execSetE v s
  | .setH v => Sys2Proof.Machine.execSetH v s
  | .setL v => Sys2Proof.Machine.execSetL v s
  | .setF v => Sys2Proof.Machine.execSetF v s
  | .getBC => Sys2Proof.Machine.execGetBC s
  | .getDE => Sys2Proof.Machine.execGetDE s
  | .getHL => Sys2Proof.Machine.execGetHL s
  | .getAF => Sys2Proof.Machine.execGetAF s
  | .getSP => Sys2Proof.Machine.execGetSP s
  | .getPC => Sys2Proof.Machine.execGetPC s
  | .setBC v => Sys2Proof.Machine.execSetBC v s
  | .setDE v => Sys2Proof.Machine.execSetDE v s
  | .setHL v => Sys2Proof.Machine.execSetHL v s
  | .setAF v => Sys2Proof.Machine.execSetAF v s
  | .setSP v => Sys2Proof.Machine.execSetSP v s
  | .setPC v => Sys2Proof.Machine.execSetPC v s
  | .getZero => Sys2Proof.Machine.execGetZero s
  | .getSubtract => Sys2Proof.Machine.execGetSubtract s
  | .getHalfCarry => Sys2Proof.Machine.execGetHalfCarry s
  | .getCarry => Sys2Proof.Machine.execGetCarry s
  | .getIme => Sys2Proof.Machine.execGetIme s
  | .setZero v => Sys2Proof.Machine.execSetZero v s
  | .setSubtract v => Sys2Proof.Machine.execSetSubtract v s
  | .setHalfCarry v => Sys2Proof.Machine.execSetHalfCarry v s
  | .setCarry v => Sys2Proof.Machine.execSetCarry v s
  | .setIme v => Sys2Proof.Machine.execSetIme v s
  | .getLcdc => Sys2Proof.Machine.execGetLcdc s
  | .getStat => Sys2Proof.Machine.execGetStat s
  | .setLcdc v => Sys2Proof.Machine.execSetLcdc v s
  | .setStat v => Sys2Proof.Machine.execSetStat v s
  | .pxIlv hi lo => Sys2Proof.Machine.execPxIlv hi lo s
  | .pxTaddr off => Sys2Proof.Machine.execPxTaddr off s
  | .pxPal ix => Sys2Proof.Machine.execPxPal ix s
  | .pxRender => Sys2Proof.Machine.execPxRender s

end Sys2Proof.Machine
end

