-- ==== Sys2Proof/Machine/Step.lean ====
section
/-! DEFINITION. One step of the machine: the next input of the owner or the environment is taken and performed whole
(00_scope.md R13, 30_encoding.md R84, 70_reset_and_hazards.md R296). -/

namespace Sys2Proof.Machine

/-- One step. With no input the block does nothing (R258). A command is decoded and performed, or answered `ILLEGAL_OP` if its
opcode is reserved; both `exec` and `illegalOp` look at `halted` first (R84, R247). -/
def step (s : State) : Host.Outcome State Fault Refusal :=
  match acceptInput s with
  | none => .next s.quiet
  | some (.command w, s') =>
    match decode w with
    | .ok i => exec i s'
    | .error _ => illegalOp s'
  | some (.reset headless surfaceOk, s') => .next (resetBlock headless surfaceOk s')
  | some (.memory addr v, s') => .next (changeMemory addr v s')
  | some (.tile offset v, s') => .next (changeTile offset v s')
  | some (.surface a, s') => .next (changeSurface a s')

/-- The owner's next command is the word with bits `w`, those at and above `nbits` zero (log 1). -/
def State.withFetchWord (s : State) (nbits w : Nat) : State :=
  sendNext s (BitVec.ofNat 24 (w % 2 ^ nbits))

end Sys2Proof.Machine
end

