-- ==== Sys2Proof/Safety.lean ====
section
/-! DEFINITION. The terms claims are stated in: running and halted instances, answers of commands, runs and what they show. -/

namespace Sys2Proof

/-- The operations of the tile pixel decoder, group 8 of R85; all others are the register file's (R2). -/
def Instr.isPixel : Instr → Bool
  | .getLcdc | .getStat | .setLcdc _ | .setStat _ | .pxIlv _ _ | .pxTaddr _ | .pxPal _ | .pxRender => true
  | .rfNew | .getA | .getB | .getC | .getD | .getE | .getH | .getL | .getF => false
  | .setA _ | .setB _ | .setC _ | .setD _ | .setE _ | .setH _ | .setL _ | .setF _ => false
  | .getBC | .getDE | .getHL | .getAF | .getSP | .getPC => false
  | .setBC _ | .setDE _ | .setHL _ | .setAF _ | .setSP _ | .setPC _ => false
  | .getZero | .getSubtract | .getHalfCarry | .getCarry | .getIme => false
  | .setZero _ | .setSubtract _ | .setHalfCarry _ | .setCarry _ | .setIme _ => false

/-- The operations that change no stored cell: every `GET`, `PX.ILV`, `PX.TADDR`, `PX.PAL` (R100, R130, R150, R190). -/
def Instr.isReadOnly : Instr → Bool
  | .getA | .getB | .getC | .getD | .getE | .getH | .getL | .getF => true
  | .getBC | .getDE | .getHL | .getAF | .getSP | .getPC => true
  | .getZero | .getSubtract | .getHalfCarry | .getCarry | .getIme => true
  | .getLcdc | .getStat | .pxIlv _ _ | .pxTaddr _ | .pxPal _ => true
  | .rfNew | .pxRender | .setLcdc _ | .setStat _ => false
  | .setA _ | .setB _ | .setC _ | .setD _ | .setE _ | .setH _ | .setL _ | .setF _ => false
  | .setBC _ | .setDE _ | .setHL _ | .setAF _ | .setSP _ | .setPC _ => false
  | .setZero _ | .setSubtract _ | .setHalfCarry _ | .setCarry _ | .setIme _ => false

end Sys2Proof

namespace Sys2Proof.Machine

/-- The instance performs commands. A halted instance is a failed one: "not a final state of any run" (R244). -/
def State.running (s : State) : Bool := !s.halted

/-- The command completes in this state with status `OK` and these 32 bits of data. -/
def Answers (i : Instr) (s : State) (data : Word) : Prop :=
  ∃ t, exec i s = .next t ∧ t.out.rsp = some { status := .ok, data := data }

/-- In every state that is not halted the command completes with `{OK, value}`, makes no port call and changes no stored cell and
nothing of the environment; every word with this opcode is the command, whatever its `arg`. -/
def ReadsOnly (op : Byte) (i : Instr) (value : State → Word) : Prop :=
  (∀ arg : Half, decode (op ++ arg) = .ok i) ∧
  ∀ s : State, s.halted = false →
    exec i s = .next { s with out := { rsp := some { status := .ok, data := value s }, calls := [] } }

/-- In every state that is not halted the command with operand `v` completes with `{OK, 0}`, makes no port call, and leaves the
state `update v s` but for the response; every word with this opcode is the command, its operand taken from `arg` by `operand`. -/
def WritesBy {α : Type} (op : Byte) (mk : α → Instr) (operand : Half → α) (update : α → State → State) : Prop :=
  (∀ arg : Half, decode (op ++ arg) = .ok (mk (operand arg))) ∧
  ∀ (v : α) (s : State), s.halted = false →
    exec (mk v) s = .next { update v s with out := { rsp := some { status := .ok, data := 0 }, calls := [] } }

/-- The first command completes, and the second one then answers `data`. -/
def ThenAnswers (first second : Instr) (s : State) (data : Word) : Prop :=
  ∃ t, exec first s = .next t ∧ Answers second t data

/-- The property holds after every reset that does not fail at start-up (R270). -/
def AfterReset (p : State → Prop) : Prop :=
  ∀ headless surfaceOk : Bool, (State.resetWith headless surfaceOk).halted = false → p (State.resetWith headless surfaceOk)

/-- A `TileIndex` query. -/
def PortCall.isTileQuery : PortCall → Bool
  | .tileIndex _ => true
  | .memRead _ _ => false
  | .present _ _ _ => false

/-- A `MemRead` call of two bytes. -/
def PortCall.isPairRead : PortCall → Bool
  | .tileIndex _ => false
  | .memRead _ n => n == 2
  | .present _ _ _ => false

/-- A `Present` call. -/
def PortCall.isPresent : PortCall → Bool
  | .tileIndex _ => false
  | .memRead _ _ => false
  | .present _ _ _ => true

/-- The pending inputs hold no reset. -/
def State.noResetPending (s : State) : Prop :=
  ∀ headless surfaceOk : Bool, Input.reset headless surfaceOk ∉ s.env.inputs

/-- A run: a sequence of steps. -/
inductive Reaches : State → State → Prop where
  | refl (s : State) : Reaches s s
  | step {s t u : State} : Reaches s t → step t = .next u → Reaches s u

/-- A completed run (R244, R295): the owner sends nothing more and the instance has not failed. -/
def CompletedRun (s t : State) : Prop :=
  Reaches s t ∧ t.env.inputs = [] ∧ t.halted = false

/-- What a step shows to the outside (R295): the response, the port activity, and the debug port after it. -/
structure Shown where
  rsp : Option Response
  calls : List PortCall
  debug : DebugTuple
  deriving DecidableEq, Repr

/-- What `n` steps show, in order (R295), up to the first step that answers no next state. -/
def shows : Nat → State → List Shown
  | 0, _ => []
  | n + 1, s =>
    match step s with
    | .next t => { rsp := t.out.rsp, calls := t.out.calls, debug := t.debugPort } :: shows n t
    | .fault _ => []
    | .refused _ => []

end Sys2Proof.Machine
end

