-- ==== Sys2Proof/Certificates/Slice0/Obligations.lean ====
section
/-! DEFINITION. The statements for the provers. A docstring names the rule or section a statement formalises; where it rests on a
decision or derivation the spec marks as its own, the docstring says so. -/

open Sys2Proof Sys2Proof.Machine

/-! ### Register file: fields -/

/-- R102 to R108. -/
def Obligations.FieldReadsAnswerTheStoredByte : Prop :=
  ReadsOnly 0x10 .getA (fun s => s.rf.a.setWidth 32) ∧
  ReadsOnly 0x11 .getB (fun s => s.rf.b.setWidth 32) ∧
  ReadsOnly 0x12 .getC (fun s => s.rf.c.setWidth 32) ∧
  ReadsOnly 0x13 .getD (fun s => s.rf.d.setWidth 32) ∧
  ReadsOnly 0x14 .getE (fun s => s.rf.e.setWidth 32) ∧
  ReadsOnly 0x15 .getH (fun s => s.rf.h.setWidth 32) ∧
  ReadsOnly 0x16 .getL (fun s => s.rf.l.setWidth 32) ∧
  (∀ rf : RegFile,
    rf.bc.extractLsb' 8 8 = rf.b ∧ rf.bc.extractLsb' 0 8 = rf.c ∧
    rf.de.extractLsb' 8 8 = rf.d ∧ rf.de.extractLsb' 0 8 = rf.e ∧
    rf.hl.extractLsb' 8 8 = rf.h ∧ rf.hl.extractLsb' 0 8 = rf.l) ∧
  AfterReset fun s =>
    Answers .getA s 0x01 ∧ Answers .getB s 0x00 ∧ Answers .getC s 0x13 ∧ Answers .getD s 0x00 ∧
    Answers .getE s 0xD8 ∧ Answers .getH s 0x01 ∧ Answers .getL s 0x4D

/-- R109 to R115. -/
def Obligations.FieldWritesStoreTheOperandOnly : Prop :=
  WritesBy 0x20 .setA (fun arg => arg.extractLsb' 0 8) (fun v s => { s with rf.a := v }) ∧
  WritesBy 0x21 .setB (fun arg => arg.extractLsb' 0 8) (fun v s => { s with rf.b := v }) ∧
  WritesBy 0x22 .setC (fun arg => arg.extractLsb' 0 8) (fun v s => { s with rf.c := v }) ∧
  WritesBy 0x23 .setD (fun arg => arg.extractLsb' 0 8) (fun v s => { s with rf.d := v }) ∧
  WritesBy 0x24 .setE (fun arg => arg.extractLsb' 0 8) (fun v s => { s with rf.e := v }) ∧
  WritesBy 0x25 .setH (fun arg => arg.extractLsb' 0 8) (fun v s => { s with rf.h := v }) ∧
  WritesBy 0x26 .setL (fun arg => arg.extractLsb' 0 8) (fun v s => { s with rf.l := v }) ∧
  (∀ (s : State) (v : Byte), s.halted = false →
    ThenAnswers (.setA v) .getAF s ((v ++ s.rf.f).setWidth 32) ∧
    ThenAnswers (.setB v) .getBC s ((v ++ s.rf.c).setWidth 32)) ∧
  AfterReset fun s =>
    ThenAnswers (.setA 0xFF) .getAF s 0xFFB0 ∧ ThenAnswers (.setB 0xAB) .getBC s 0xAB13 ∧
    ThenAnswers (.setC 0x00) .getBC s 0x0000 ∧ ThenAnswers (.setD 0x12) .getDE s 0x12D8 ∧
    ThenAnswers (.setE 0x34) .getDE s 0x0034 ∧ ThenAnswers (.setH 0xC0) .getHL s 0xC04D ∧
    ThenAnswers (.setL 0xFF) .getHL s 0x01FF

/-- R116 to R121. -/
def Obligations.StackPointerProgramCounterAndImeAreStored : Prop :=
  ReadsOnly 0x34 .getSP (fun s => s.rf.sp.setWidth 32) ∧
  WritesBy 0x44 .setSP (fun arg => arg) (fun v s => { s with rf.sp := v }) ∧
  ReadsOnly 0x35 .getPC (fun s => s.rf.pc.setWidth 32) ∧
  WritesBy 0x45 .setPC (fun arg => arg) (fun v s => { s with rf.pc := v }) ∧
  ReadsOnly 0x54 .getIme (fun s => s.rf.ime.setWidth 32) ∧
  WritesBy 0x64 .setIme (fun arg => arg.extractLsb' 0 1) (fun v s => { s with rf.ime := v }) ∧
  (∀ (s : State) (v : Half) (b : Bit), s.halted = false →
    ThenAnswers (.setSP v) .getSP s (v.setWidth 32) ∧ ThenAnswers (.setPC v) .getPC s (v.setWidth 32) ∧
    ThenAnswers (.setIme b) .getIme s (b.setWidth 32)) ∧
  decode 0x640002 = .ok (.setIme 0) ∧
  AfterReset fun s => Answers .getSP s 0xFFFE ∧ Answers .getPC s 0x0100 ∧ Answers .getIme s 1

/-- 40_regfile_fields.md section 2 (the spec's decision D8). RF.NEW loads the snapshot whatever the register file held, and leaves
everything outside the register file alone; a second one changes nothing more. -/
def Obligations.RegisterFileConstructionLoadsTheSnapshot : Prop :=
  (∀ arg : Half, decode ((0x00 : Byte) ++ arg) = .ok .rfNew) ∧
  (∀ s : State, s.halted = false →
    exec .rfNew s = .next { s with
      rf := { a := 0x01, b := 0x00, c := 0x13, d := 0x00, e := 0xD8, h := 0x01, l := 0x4D
              fl := { zero := 1, subtract := 0, halfCarry := 1, carry := 1 }
              sp := 0xFFFE, pc := 0x0100, ime := 1 }
      out := { rsp := some { status := .ok, data := 0 }, calls := [] } }) ∧
  ∀ s t u : State, exec .rfNew s = .next t → exec .rfNew t = .next u → u = t

/-- 10_state.md section 7 (R33, whose pair views the spec marks as derived; RF.NEW as a command is the spec's decision D8). -/
def Obligations.ResetAndNewLeaveTheSnapshot : Prop :=
  ∀ s : State,
    ((∃ headless surfaceOk : Bool, s = State.resetWith headless surfaceOk) ∨
      (∃ r : State, r.halted = false ∧ exec .rfNew r = .next s)) →
    s.rf.a = 0x01 ∧ s.rf.b = 0x00 ∧ s.rf.c = 0x13 ∧ s.rf.d = 0x00 ∧ s.rf.e = 0xD8 ∧ s.rf.h = 0x01 ∧ s.rf.l = 0x4D ∧
    s.rf.sp = 0xFFFE ∧ s.rf.pc = 0x0100 ∧ s.rf.ime = 1 ∧
    s.rf.fl.zero = 1 ∧ s.rf.fl.subtract = 0 ∧ s.rf.fl.halfCarry = 1 ∧ s.rf.fl.carry = 1 ∧
    s.rf.f = 0xB0 ∧ s.rf.af = 0x01B0 ∧ s.rf.bc = 0x0013 ∧ s.rf.de = 0x00D8 ∧ s.rf.hl = 0x014D

/-! ### Register file: pair views -/

/-- R131 to R134. -/
def Obligations.PairReadsComposeTwoBytes : Prop :=
  ReadsOnly 0x30 .getBC (fun s => (s.rf.b ++ s.rf.c).setWidth 32) ∧
  ReadsOnly 0x31 .getDE (fun s => (s.rf.d ++ s.rf.e).setWidth 32) ∧
  ReadsOnly 0x32 .getHL (fun s => (s.rf.h ++ s.rf.l).setWidth 32) ∧
  ReadsOnly 0x33 .getAF (fun s =>
    (s.rf.a ++ (s.rf.fl.zero ++ s.rf.fl.subtract ++ s.rf.fl.halfCarry ++ s.rf.fl.carry ++ 0#4)).setWidth 32) ∧
  AfterReset fun s =>
    Answers .getBC s 0x0013 ∧ Answers .getDE s 0x00D8 ∧ Answers .getHL s 0x014D ∧ Answers .getAF s 0x01B0

/-- R135 to R138. -/
def Obligations.PairWritesSplitTheOperand : Prop :=
  WritesBy 0x40 .setBC (fun arg => arg) (fun v s => { s with rf.b := v.extractLsb' 8 8, rf.c := v.extractLsb' 0 8 }) ∧
  WritesBy 0x41 .setDE (fun arg => arg) (fun v s => { s with rf.d := v.extractLsb' 8 8, rf.e := v.extractLsb' 0 8 }) ∧
  WritesBy 0x42 .setHL (fun arg => arg) (fun v s => { s with rf.h := v.extractLsb' 8 8, rf.l := v.extractLsb' 0 8 }) ∧
  WritesBy 0x43 .setAF (fun arg => arg) (fun v s => { s with
    rf.a := v.extractLsb' 8 8
    rf.fl := { zero := v.extractLsb' 7 1, subtract := v.extractLsb' 6 1, halfCarry := v.extractLsb' 5 1, carry := v.extractLsb' 4 1 } }) ∧
  (∀ (s : State) (v : Half), s.halted = false →
    ThenAnswers (.setBC v) .getBC s (v.setWidth 32) ∧ ThenAnswers (.setDE v) .getDE s (v.setWidth 32) ∧
    ThenAnswers (.setHL v) .getHL s (v.setWidth 32) ∧ ThenAnswers (.setAF v) .getAF s ((v &&& 0xFFF0).setWidth 32)) ∧
  AfterReset fun s =>
    ThenAnswers (.setBC 0xBEEF) .getB s 0xBE ∧ ThenAnswers (.setBC 0xBEEF) .getC s 0xEF ∧
    ThenAnswers (.setDE 0x1234) .getD s 0x12 ∧ ThenAnswers (.setDE 0x1234) .getE s 0x34 ∧
    ThenAnswers (.setHL 0x00FF) .getH s 0x00 ∧ ThenAnswers (.setHL 0x00FF) .getL s 0xFF ∧
    ThenAnswers (.setAF 0x12FF) .getA s 0x12 ∧ ThenAnswers (.setAF 0x12FF) .getF s 0xF0

/-- 41_pair_views.md section 4, whose second sentence the spec marks as derived. Writing back what a pair read answered leaves the
stored cells as they were; a write of one pair leaves the other pairs alone. -/
def Obligations.PairViewsRoundTrip : Prop :=
  (∀ rf : RegFile,
    { rf with b := splitHi rf.bc, c := splitLo rf.bc } = rf ∧
    { rf with d := splitHi rf.de, e := splitLo rf.de } = rf ∧
    { rf with h := splitHi rf.hl, l := splitLo rf.hl } = rf ∧
    { rf with a := splitHi rf.af, fl := unpackFlags (splitLo rf.af) } = rf) ∧
  (∀ s t : State, s.halted = false →
    (exec (.setBC s.rf.bc) s = .next t ∨ exec (.setDE s.rf.de) s = .next t ∨
      exec (.setHL s.rf.hl) s = .next t ∨ exec (.setAF s.rf.af) s = .next t) →
    t = { s with out := { rsp := some { status := .ok, data := 0 }, calls := [] } }) ∧
  ∀ (s t : State) (v : Half),
    (exec (.setBC v) s = .next t → t.rf.de = s.rf.de ∧ t.rf.hl = s.rf.hl ∧ t.rf.af = s.rf.af) ∧
    (exec (.setDE v) s = .next t → t.rf.bc = s.rf.bc ∧ t.rf.hl = s.rf.hl ∧ t.rf.af = s.rf.af) ∧
    (exec (.setHL v) s = .next t → t.rf.bc = s.rf.bc ∧ t.rf.de = s.rf.de ∧ t.rf.af = s.rf.af) ∧
    (exec (.setAF v) s = .next t → t.rf.bc = s.rf.bc ∧ t.rf.de = s.rf.de ∧ t.rf.hl = s.rf.hl)

/-! ### Register file: flags -/

/-- R151, R152. -/
def Obligations.PackedFlagByteLayout : Prop :=
  (∀ fl : Flags,
    packFlags fl = (fl.zero.setWidth 8 <<< 7) ||| (fl.subtract.setWidth 8 <<< 6) ||| (fl.halfCarry.setWidth 8 <<< 5) |||
      (fl.carry.setWidth 8 <<< 4)) ∧
  (∀ fl : Flags, (packFlags fl).toNat % 16 = 0) ∧
  ∀ v : Byte,
    (unpackFlags v).zero = v.extractLsb' 7 1 ∧ (unpackFlags v).subtract = v.extractLsb' 6 1 ∧
    (unpackFlags v).halfCarry = v.extractLsb' 5 1 ∧ (unpackFlags v).carry = v.extractLsb' 4 1

/-- 42_flags.md section 2, whose law (d) the spec marks as derived. Packing is a bijection between the flag states and the bytes
with a zero low nibble, and unpacking then packing keeps the high nibble and clears the low one. -/
def Obligations.PackedFlagByteRoundTrip : Prop :=
  (∀ v : Byte, packFlags (unpackFlags v) = v &&& 0xF0) ∧
  (∀ fl : Flags, unpackFlags (packFlags fl) = fl) ∧
  (∀ fl fl' : Flags, packFlags fl = packFlags fl' → fl = fl') ∧
  (∀ v : Byte, v &&& 0x0F = 0 → ∃ fl : Flags, packFlags fl = v) ∧
  ∀ (s : State) (v : Byte), s.halted = false → ThenAnswers (.setF v) .getF s ((v &&& 0xF0).setWidth 32)

/-- R154 to R157, R162. -/
def Obligations.FlagReadsAnswerTheStoredBits : Prop :=
  ReadsOnly 0x50 .getZero (fun s => s.rf.fl.zero.setWidth 32) ∧
  ReadsOnly 0x51 .getSubtract (fun s => s.rf.fl.subtract.setWidth 32) ∧
  ReadsOnly 0x52 .getHalfCarry (fun s => s.rf.fl.halfCarry.setWidth 32) ∧
  ReadsOnly 0x53 .getCarry (fun s => s.rf.fl.carry.setWidth 32) ∧
  ReadsOnly 0x17 .getF (fun s =>
    (s.rf.fl.zero ++ s.rf.fl.subtract ++ s.rf.fl.halfCarry ++ s.rf.fl.carry ++ 0#4).setWidth 32) ∧
  (∀ rf : RegFile,
    rf.f.extractLsb' 7 1 = rf.fl.zero ∧ rf.f.extractLsb' 6 1 = rf.fl.subtract ∧
    rf.f.extractLsb' 5 1 = rf.fl.halfCarry ∧ rf.f.extractLsb' 4 1 = rf.fl.carry ∧ rf.af.extractLsb' 0 8 = rf.f) ∧
  AfterReset fun s =>
    Answers .getZero s 1 ∧ Answers .getSubtract s 0 ∧ Answers .getHalfCarry s 1 ∧ Answers .getCarry s 1 ∧ Answers .getF s 0xB0

/-- R158 to R161, R163. -/
def Obligations.FlagWritesChangeTheirFlagOnly : Prop :=
  WritesBy 0x60 .setZero (fun arg => arg.extractLsb' 0 1) (fun v s => { s with rf.fl.zero := v }) ∧
  WritesBy 0x61 .setSubtract (fun arg => arg.extractLsb' 0 1) (fun v s => { s with rf.fl.subtract := v }) ∧
  WritesBy 0x62 .setHalfCarry (fun arg => arg.extractLsb' 0 1) (fun v s => { s with rf.fl.halfCarry := v }) ∧
  WritesBy 0x63 .setCarry (fun arg => arg.extractLsb' 0 1) (fun v s => { s with rf.fl.carry := v }) ∧
  WritesBy 0x27 .setF (fun arg => arg.extractLsb' 0 8) (fun v s => { s with
    rf.fl := { zero := v.extractLsb' 7 1, subtract := v.extractLsb' 6 1, halfCarry := v.extractLsb' 5 1, carry := v.extractLsb' 4 1 } }) ∧
  (AfterReset fun s =>
    ThenAnswers (.setZero 0) .getF s 0x30 ∧ ThenAnswers (.setZero 0) .getAF s 0x0130 ∧
    ThenAnswers (.setSubtract 1) .getF s 0xF0 ∧ ThenAnswers (.setHalfCarry 0) .getF s 0x90 ∧
    ThenAnswers (.setCarry 0) .getF s 0xA0) ∧
  ∀ s : State, s.halted = false →
    ThenAnswers (.setF 0x5A) .getF s 0x50 ∧ ThenAnswers (.setF 0x5A) .getZero s 0 ∧ ThenAnswers (.setF 0x5A) .getSubtract s 1 ∧
    ThenAnswers (.setF 0x5A) .getHalfCarry s 0 ∧ ThenAnswers (.setF 0x5A) .getCarry s 1 ∧
    ThenAnswers (.setF 0x0F) .getF s 0x00 ∧ ThenAnswers (.setF 0xFF) .getF s 0xF0

/-- R25: a flag is written only by its own `SET`, SET.F, SET.AF and RF.NEW, and read only by its own `GET`, GET.F, GET.AF and the
debug port (a command that is no reader of a flag does the same, the flag apart, whatever the flag holds). -/
def Obligations.FlagsAreTouchedByTheirOwnCommandsOnly : Prop :=
  (∀ (i : Instr) (s t : State), exec i s = .next t → i ≠ .rfNew → (∀ v, i ≠ .setF v) → (∀ v, i ≠ .setAF v) →
    ((∀ v, i ≠ .setZero v) → t.rf.fl.zero = s.rf.fl.zero) ∧
    ((∀ v, i ≠ .setSubtract v) → t.rf.fl.subtract = s.rf.fl.subtract) ∧
    ((∀ v, i ≠ .setHalfCarry v) → t.rf.fl.halfCarry = s.rf.fl.halfCarry) ∧
    ((∀ v, i ≠ .setCarry v) → t.rf.fl.carry = s.rf.fl.carry)) ∧
  (∀ (i : Instr) (s t : State) (v : Bit), exec i s = .next t → i ≠ .getF → i ≠ .getAF →
    (i ≠ .getZero → ∃ v', exec i { s with rf.fl.zero := v } = .next { t with rf.fl.zero := v' }) ∧
    (i ≠ .getSubtract → ∃ v', exec i { s with rf.fl.subtract := v } = .next { t with rf.fl.subtract := v' }) ∧
    (i ≠ .getHalfCarry → ∃ v', exec i { s with rf.fl.halfCarry := v } = .next { t with rf.fl.halfCarry := v' }) ∧
    (i ≠ .getCarry → ∃ v', exec i { s with rf.fl.carry := v } = .next { t with rf.fl.carry := v' })) ∧
  ∀ s : State, s.debugPort.f = s.rf.fl.zero ++ s.rf.fl.subtract ++ s.rf.fl.halfCarry ++ s.rf.fl.carry ++ 0#4

/-! ### Frames over all commands -/

/-- 10_state.md section 1, column "written by": a stored cell changes only by one of its writers. -/
def Obligations.StoredCellsChangeOnlyByTheirWriters : Prop :=
  ∀ (i : Instr) (s t : State), exec i s = .next t →
    (i ≠ .rfNew →
      ((∀ v, i ≠ .setA v) → (∀ v, i ≠ .setAF v) → t.rf.a = s.rf.a) ∧
      ((∀ v, i ≠ .setB v) → (∀ v, i ≠ .setBC v) → t.rf.b = s.rf.b) ∧
      ((∀ v, i ≠ .setC v) → (∀ v, i ≠ .setBC v) → t.rf.c = s.rf.c) ∧
      ((∀ v, i ≠ .setD v) → (∀ v, i ≠ .setDE v) → t.rf.d = s.rf.d) ∧
      ((∀ v, i ≠ .setE v) → (∀ v, i ≠ .setDE v) → t.rf.e = s.rf.e) ∧
      ((∀ v, i ≠ .setH v) → (∀ v, i ≠ .setHL v) → t.rf.h = s.rf.h) ∧
      ((∀ v, i ≠ .setL v) → (∀ v, i ≠ .setHL v) → t.rf.l = s.rf.l) ∧
      ((∀ v, i ≠ .setSP v) → t.rf.sp = s.rf.sp) ∧
      ((∀ v, i ≠ .setPC v) → t.rf.pc = s.rf.pc) ∧
      ((∀ v, i ≠ .setIme v) → t.rf.ime = s.rf.ime) ∧
      ((∀ v, i ≠ .setF v) → (∀ v, i ≠ .setAF v) →
        ((∀ v, i ≠ .setZero v) → t.rf.fl.zero = s.rf.fl.zero) ∧
        ((∀ v, i ≠ .setSubtract v) → t.rf.fl.subtract = s.rf.fl.subtract) ∧
        ((∀ v, i ≠ .setHalfCarry v) → t.rf.fl.halfCarry = s.rf.fl.halfCarry) ∧
        ((∀ v, i ≠ .setCarry v) → t.rf.fl.carry = s.rf.fl.carry))) ∧
    ((∀ v, i ≠ .setLcdc v) → t.px.lcdc = s.px.lcdc) ∧
    ((∀ v, i ≠ .setStat v) → t.px.stat = s.px.stat) ∧
    t.px.headless = s.px.headless ∧
    (i ≠ .pxRender → t.halted = s.halted)

/-- Common facts of 40 to 43 (R100, R130, R150, R190): a read command changes no stored cell and no part of the environment, in
every state, halted ones included. -/
def Obligations.ReadCommandsChangeNoState : Prop :=
  ∀ (i : Instr) (s : State), i.isReadOnly = true →
    ∃ o : Output, exec i s = .next { s with out := o } ∧ o.calls = []

/-- 20_memory.md sections 2 and 3 (R56, R58; that a reset leaves the environment alone is log entry 11). Neither a command
nor a step that takes a command (a reserved one included) or a reset changes a byte a port reads. -/
def Obligations.NoCommandWritesMemory : Prop :=
  (∀ (i : Instr) (s t : State), exec i s = .next t →
    (∀ addr : Half, t.memByte addr = s.memByte addr) ∧
    (∀ offset : CellOffset, t.tileIndex offset = s.tileIndex offset) ∧
    t.env = s.env) ∧
  ∀ (s t : State) (rest : List Input),
    ((∃ w : Command, s.env.inputs = .command w :: rest) ∨
      (∃ headless surfaceOk : Bool, s.env.inputs = .reset headless surfaceOk :: rest)) →
    step s = .next t →
    (∀ addr : Half, t.memByte addr = s.memByte addr) ∧ ∀ offset : CellOffset, t.tileIndex offset = s.tileIndex offset

/-- R243: no command but PX.RENDER can fail; every one of them answers, and a failure of its own never halts the instance. -/
def Obligations.OnlyRenderCanFail : Prop :=
  ∀ (i : Instr) (s : State), i ≠ .pxRender →
    ∃ t : State, exec i s = .next t ∧ t.halted = s.halted ∧
      (s.halted = false → ∃ d : Word, t.out.rsp = some { status := .ok, data := d })

/-- 00_scope.md section 1 (R2; the exception for `halted` is the spec's decision D21): no operation of one part reads or writes
state of the other part, and no register file operation touches a port. -/
def Obligations.RegisterFileAndPixelDecoderAreIndependent : Prop :=
  ∀ (i : Instr) (s t : State), exec i s = .next t →
    (i.isPixel = false →
      t.px = s.px ∧ t.out.calls = [] ∧
      ∀ (px : PixelDecoder) (env : Environment),
        exec i { s with px := px, env := env } = .next { t with px := px, env := env }) ∧
    (i.isPixel = true →
      t.rf = s.rf ∧ ∀ rf : RegFile, exec i { s with rf := rf } = .next { t with rf := rf })

/-- 10_state.md sections 4 and 5 (R27 to R29, R31; the spec's decisions D22, D30): `sp`, `pc`, `ime` and `stat` gate nothing. A
command other than the cell's own read does the same, the cell apart, whatever the cell holds. -/
def Obligations.StoredCellsWithoutBehaviourGateNothing : Prop :=
  ∀ (i : Instr) (s t : State), exec i s = .next t →
    (i ≠ .getSP → ∀ v, ∃ v', exec i { s with rf.sp := v } = .next { t with rf.sp := v' }) ∧
    (i ≠ .getPC → ∀ v, ∃ v', exec i { s with rf.pc := v } = .next { t with rf.pc := v' }) ∧
    (i ≠ .getIme → ∀ v, ∃ v', exec i { s with rf.ime := v } = .next { t with rf.ime := v' }) ∧
    (i ≠ .getStat → ∀ v, ∃ v', exec i { s with px.stat := v } = .next { t with px.stat := v' })

/-- 20_memory.md sections 2, 3 and 4 (R57, which the spec marks as derived, R58, R61), with the no-op of 44_render.md section 2 (R211)
and the halted state of 60_exceptions.md section 2 (R244; D21): only a non-headless PX.RENDER reaches a port. -/
def Obligations.OnlyRenderTouchesPorts : Prop :=
  ∀ (i : Instr) (s t : State), exec i s = .next t →
    (i ≠ .pxRender ∨ s.px.headless = true ∨ s.halted = true) → t.out.calls = []

/-- 30_encoding.md section 1 (R80, R82, R83; the spec's decisions D1, D7): every command that completes is answered by one response,
its data is zero for every status other than `OK`, and the four status codes have their listed values. -/
def Obligations.EveryCommandIsAnsweredOnce : Prop :=
  (∀ (i : Instr) (s t : State), exec i s = .next t →
    ∃ r : Response, t.out.rsp = some r ∧ (r.status ≠ .ok → r.data = 0) ∧ r.word.extractLsb' 32 4 = r.status.code ∧
      r.word.extractLsb' 0 32 = r.data) ∧
  Status.code .ok = 0 ∧ Status.code .illegalOp = 1 ∧ Status.code .presentFail = 2 ∧ Status.code .halted = 3

/-! ### Control bytes and pixel primitives -/

/-- 43_pixel_primitives.md section 2 (the spec's decision D22). -/
def Obligations.ControlBytesAreStored : Prop :=
  ReadsOnly 0x80 .getLcdc (fun s => s.px.lcdc.setWidth 32) ∧
  ReadsOnly 0x81 .getStat (fun s => s.px.stat.setWidth 32) ∧
  WritesBy 0x82 .setLcdc (fun arg => arg.extractLsb' 0 8) (fun v s => { s with px.lcdc := v }) ∧
  WritesBy 0x83 .setStat (fun arg => arg.extractLsb' 0 8) (fun v s => { s with px.stat := v }) ∧
  (∀ s : State, s.halted = false →
    ThenAnswers (.setLcdc 0x91) .getLcdc s 0x91 ∧ ThenAnswers (.setStat 0x85) .getStat s 0x85 ∧
    ThenAnswers (.setLcdc 0x10) (.pxTaddr 0x0000) s 0x8000) ∧
  AfterReset fun s => Answers .getLcdc s (Config.lcdcReset.setWidth 32) ∧ Answers .getStat s (Config.statReset.setWidth 32)

/-- R192. -/
def Obligations.InterleaveIsTheSourceFormula : Prop :=
  ∀ (hi lo : Byte) (i : Fin 8),
    ((interleave hi lo)[i]).toNat = 2 * ((hi >>> (7 - i.val)) &&& 1).toNat + ((lo >>> (7 - i.val)) &&& 1).toNat ∧
    (interleave hi lo)[i] = hi.extractLsb' (7 - i.val) 1 ++ lo.extractLsb' (7 - i.val) 1

/-- 43_pixel_primitives.md section 3 (R194, whose laws (c) and (d) the spec marks as derived). -/
def Obligations.InterleaveIsABijection : Prop :=
  (∀ (hi lo : Byte) (i : Fin 8), ((interleave hi lo)[i]).toNat ≤ 3) ∧
  (∀ hi lo hi' lo' : Byte, interleave hi lo = interleave hi' lo' → hi = hi' ∧ lo = lo') ∧
  (∀ ix : Vector ColourIndex 8, ∃ hi lo : Byte, interleave hi lo = ix) ∧
  ∀ (hi lo : Byte) (i : Fin 8),
    (packIndices (interleave hi lo)).getLsbD (15 - 2 * i.val) = hi.getLsbD (7 - i.val) ∧
    (packIndices (interleave hi lo)).getLsbD (14 - 2 * i.val) = lo.getLsbD (7 - i.val)

/-- 43_pixel_primitives.md section 3 (R193; the packing is the spec's decision D20). -/
def Obligations.InterleaveCommandAnswersTheShuffle : Prop :=
  (∀ arg : Half, decode ((0x88 : Byte) ++ arg) = .ok (.pxIlv (arg.extractLsb' 8 8) (arg.extractLsb' 0 8))) ∧
  (∀ (hi lo : Byte) (s : State), s.halted = false →
    ∃ d : Word,
      exec (.pxIlv hi lo) s = .next { s with out := { rsp := some { status := .ok, data := d }, calls := [] } } ∧
      d.extractLsb' 16 16 = 0 ∧
      ∀ k : Fin 8, d.getLsbD (2 * k.val + 1) = hi.getLsbD k.val ∧ d.getLsbD (2 * k.val) = lo.getLsbD k.val) ∧
  ∀ s : State, s.halted = false →
    Answers (.pxIlv 0xF0 0xAA) s 0xEE44 ∧ Answers (.pxIlv 0xFF 0x00) s 0xAAAA ∧ Answers (.pxIlv 0x00 0xFF) s 0x5555

/-- R195. -/
def Obligations.AddressingModeIsControlBitFour : Prop :=
  (∀ lcdc : Byte, lcdc &&& 0x10 = 0x10 → addressingMode lcdc = 1 ∧ tileDataBase (addressingMode lcdc) = 0x8000) ∧
  (∀ lcdc : Byte, lcdc &&& 0x10 = 0 → addressingMode lcdc = 0 ∧ tileDataBase (addressingMode lcdc) = 0x9000) ∧
  ∀ (s s' : State) (offset : Nat), s.px.lcdc &&& 0x10 = s'.px.lcdc &&& 0x10 →
    s.tileIndex (BitVec.ofNat 10 offset) = s'.tileIndex (BitVec.ofNat 10 offset) → cellAddr s offset = cellAddr s' offset

/-- 43_pixel_primitives.md section 4 (R196, R198; the unsigned wrap and the command are the spec's decisions D14, D29). -/
def Obligations.TileAddressCommandAddsTheBase : Prop :=
  (∀ arg : Half, decode ((0x89 : Byte) ++ arg) = .ok (.pxTaddr arg)) ∧
  (∀ (off : Half) (s : State), s.halted = false →
    exec (.pxTaddr off) s = .next { s with
      out := { rsp := some { status := .ok
                             data := (if s.px.lcdc.getLsbD 4 then (0x8000 : Half) + off else 0x9000 + off).setWidth 32 }
               calls := [] } }) ∧
  ∀ s : State, s.halted = false →
    (s.px.lcdc = 0x00 → Answers (.pxTaddr 0xFFFF) s 0x8FFF ∧ Answers (.pxTaddr 0x7000) s 0x0000) ∧
    (s.px.lcdc = 0x10 → Answers (.pxTaddr 0x00FF) s 0x80FF ∧ Answers (.pxTaddr 0x8000) s 0x0000)

/-- 43_pixel_primitives.md section 4 (R197; the 8-bit width is the spec's decision D13). -/
def Obligations.TileAddressOfAnIndexIsExtendedNotScaled : Prop :=
  ∀ idx : Byte,
    (tileAddrIdx 1 idx).toNat = 0x8000 + idx.toNat ∧
    (idx.toNat ≤ 0x7F → (tileAddrIdx 0 idx).toNat = 0x9000 + idx.toNat) ∧
    (0x80 ≤ idx.toNat → (tileAddrIdx 0 idx).toNat + 256 = 0x9000 + idx.toNat) ∧
    tileAddrIdx 1 idx = tileAddr 1 (idx.setWidth 16) ∧ tileAddrIdx 0 idx = tileAddr 0 (idx.signExtend 16)

/-- 43_pixel_primitives.md section 5 (R199, R200; the spec's decisions D19, D29). -/
def Obligations.PaletteCommandLooksTheIndexUp : Prop :=
  (∀ arg : Half, decode ((0x8A : Byte) ++ arg) = .ok (.pxPal (arg.extractLsb' 0 2))) ∧
  ∀ (ix : ColourIndex) (s : State), s.halted = false →
    exec (.pxPal ix) s = .next { s with out := { rsp := some { status := .ok, data := Config.palette ix }, calls := [] } }

/-! ### Render -/

/-- R211. -/
def Obligations.HeadlessRenderIsANoOp : Prop :=
  ∀ s : State, s.halted = false → s.px.headless = true →
    exec .pxRender s = .next { s with out := { rsp := some { status := .ok, data := 0 }, calls := [] } }

/-- R216. -/
def Obligations.RenderPresentsOnceAndReportsTheAnswer : Prop :=
  ∀ s : State, s.halted = false → s.px.headless = false →
    (s.env.surface = .ok →
      exec .pxRender s = .next { s with
        out := { rsp := some { status := .ok, data := 0 }, calls := renderCalls s ++ [.present (renderFrame s) 256 256] } }) ∧
    (s.env.surface = .err →
      exec .pxRender s = .next { s with
        halted := true
        out := { rsp := some { status := .presentFail, data := 0 }
                 calls := renderCalls s ++ [.present (renderFrame s) 256 256] } }) ∧
    ∀ c ∈ renderCalls s, c.isPresent = false

/-- 70_reset_and_hazards.md section 3 (R283; the spec's decision D26): a render ends only when `Present` answers, and every other
command, like every other render, answers a next state. The model's form of the hang is log entry 8. -/
def Obligations.RenderDoesNotEndWithoutAnAnswer : Prop :=
  ∀ (i : Instr) (s : State),
    (exec i s = .fault .presentNeverAnswers ↔
      i = .pxRender ∧ s.halted = false ∧ s.px.headless = false ∧ s.env.surface = .never) ∧
    (¬(i = .pxRender ∧ s.halted = false ∧ s.px.headless = false ∧ s.env.surface = .never) →
      ∃ t : State, exec i s = .next t)

/-- 44_render.md section 3 (R217, which the spec marks as derived, from the decisions D13, D16, D17, D18). It holds with
memory and tile indices fixed during the command (D24; log entry 10). -/
def Obligations.RenderFrameHasTheClosedForm : Prop :=
  ∀ s : State,
    let mode : Bit := s.px.lcdc.extractLsb' 4 1
    let taddr : Nat → Half := fun k => tileAddrIdx mode (s.tileIndex (BitVec.ofNat 10 k))
    let ix : Nat → Vector ColourIndex 8 := fun k => interleave (s.memByte (taddr k)) (s.memByte (taddr k + 1))
    ∀ (n : Nat) (hn : n < 65536),
      (n ≤ 1023 → (renderFrame s)[n] = Config.palette ((ix n)[0])) ∧
      (1024 ≤ n → n ≤ 1086 →
        (renderFrame s)[n] = Config.palette ((ix 1023)[(n - 1023) % 8]'(Nat.mod_lt _ (by decide)))) ∧
      (1087 ≤ n → (renderFrame s)[n] = 0)

/-- 44_render.md section 1 (R210; the spec's decisions D13, D16, D17, D18, log entry 13): the frame is what the four nested loops of
the pseudocode write, one write after the other, on a blank frame, with memory and tile indices fixed during the command (D24; log
entry 10). -/
def Obligations.RenderFrameIsTheFourLoops : Prop :=
  ∀ s : State,
    let mode : Bit := s.px.lcdc.extractLsb' 4 1
    renderFrame s =
      (List.range 32).foldl (fun fb x => (List.range 32).foldl (fun fb y =>
        let offset := x * 32 + y
        let taddr := tileAddrIdx mode (s.tileIndex (BitVec.ofNat 10 offset))
        (List.range 8).foldl (fun fb i =>
          (List.finRange 8).foldl (fun fb j =>
            fb.setIfInBounds (offset + i * 8 + j.val)
              (Config.palette ((interleave (s.memByte taddr) (s.memByte (taddr + 1)))[j]))) fb) fb) fb)
        (Vector.replicate 65536 (0 : Word))

/-- 20_memory.md section 10 (R72) and 44_render.md sections 1 and 2 (R210, R213, R214; the spec's decisions D13, D17, D18, log entry
13, and D24, log entry 10): the order of a render's port calls, and the address of its reads. -/
def Obligations.RenderPortCallsComeInCellOrder : Prop :=
  ∀ s : State,
    renderCalls s = (List.range 1024).flatMap fun k =>
      PortCall.tileIndex (BitVec.ofNat 10 k) ::
        List.replicate 8 (.memRead (tileAddrIdx (s.px.lcdc.extractLsb' 4 1) (s.tileIndex (BitVec.ofNat 10 k))) 2)

/-- 44_render.md section 3 (R219, which the spec marks as derived, from R210 and its decisions D17, D18): the counts of port calls of one completed render. -/
def Obligations.RenderCountsOfPortCalls : Prop :=
  ∀ s t : State, s.halted = false → s.px.headless = false → exec .pxRender s = .next t →
    t.out.calls.countP PortCall.isTileQuery = 1024 ∧
    t.out.calls.countP PortCall.isPairRead = 8192 ∧
    t.out.calls.countP PortCall.isPresent = 1 ∧
    t.out.calls.length = 9217

/-- 20_memory.md section 8 (R67, which the spec marks as derived; the spec's decision D13): where a render reads. -/
def Obligations.RenderReadsOnlyTileData : Prop :=
  ∀ (s t : State) (addr : Half) (n : Nat), exec .pxRender s = .next t → PortCall.memRead addr n ∈ t.out.calls →
    n = 2 ∧
    (s.px.lcdc.getLsbD 4 = true → 0x8000 ≤ addr.toNat ∧ addr.toNat ≤ 0x80FF) ∧
    (s.px.lcdc.getLsbD 4 = false → 0x8F80 ≤ addr.toNat ∧ addr.toNat ≤ 0x907F)

/-- 44_render.md sections 2 and 3 (R212, R213, R218(f); the spec's decision D18), with memory and tile indices fixed during the command
(D24; log entry 10): the frame depends on the mode bit and the two read ports only, so nothing of an
earlier frame, of the register file or of another `lcdc` or `stat` bit is visible in it. The two states have one palette, as two
states of one instance have (log entries 4, 17). -/
def Obligations.RenderFrameDependsOnModeAndPortsOnly : Prop :=
  ∀ s s' : State, s.px.lcdc.getLsbD 4 = s'.px.lcdc.getLsbD 4 →
    (∀ addr : Half, s.memByte addr = s'.memByte addr) → (∀ o : CellOffset, s.tileIndex o = s'.tileIndex o) →
    renderFrame s = renderFrame s'

/-! ### Failures, the halted state, reset -/

/-- 60_exceptions.md section 2 (R244; the spec's decision D21). -/
def Obligations.HaltedInstanceAnswersHaltedOnly : Prop :=
  (∀ (i : Instr) (s : State), s.halted = true →
    exec i s = .next { s with out := { rsp := some { status := .halted, data := 0 }, calls := [] } }) ∧
  ∀ (s : State) (w : Command) (rest : List Input), s.halted = true → s.env.inputs = .command w :: rest →
    step s = .next { s with env.inputs := rest, out := { rsp := some { status := .halted, data := 0 }, calls := [] } }

/-- 60_exceptions.md section 2 (R244; D21) over runs: without a reset a halted instance stays halted and keeps every stored cell. -/
def Obligations.HaltedIsLeftByResetOnly : Prop :=
  ∀ s t : State, Reaches s t → s.halted = true → s.noResetPending →
    t.halted = true ∧ t.rf = s.rf ∧ t.px = s.px

/-- 10_state.md section 8 (R35; the spec's decision D10) over runs: `headless` is constant until the next reset. -/
def Obligations.HeadlessIsConstantUntilReset : Prop :=
  ∀ s t : State, Reaches s t → s.noResetPending → t.px.headless = s.px.headless

/-- 70_reset_and_hazards.md section 1 (R270, R241; the spec's decisions D9, D10; the environment's part is log entry 11). -/
def Obligations.ResetAssignsEveryCell : Prop :=
  ∀ (s : State) (headless surfaceOk : Bool) (rest : List Input), s.env.inputs = .reset headless surfaceOk :: rest →
    step s = .next
      { rf := { a := 0x01, b := 0x00, c := 0x13, d := 0x00, e := 0xD8, h := 0x01, l := 0x4D
                fl := { zero := 1, subtract := 0, halfCarry := 1, carry := 1 }
                sp := 0xFFFE, pc := 0x0100, ime := 1 }
        px := { lcdc := Config.lcdcReset, stat := Config.statReset, headless := headless }
        halted := !headless && !surfaceOk
        env := { s.env with inputs := rest }
        out := { rsp := none, calls := [] } } ∧
    step s = .next { State.resetWith headless surfaceOk with env := { s.env with inputs := rest } }

/-- 30_encoding.md section 5 (R89; the spec's decision D6). -/
def Obligations.ReservedOpcodesAreAnsweredIllegal : Prop :=
  (∀ (op : Byte) (arg : Half), decode (op ++ arg) = .error (.reservedOpcode op) ↔ reservedOpcode op = true) ∧
  ((List.range 256).filter fun n => reservedOpcode (BitVec.ofNat 8 n)).length = 209 ∧
  ∀ (s : State) (op : Byte) (arg : Half) (rest : List Input),
    s.env.inputs = .command (op ++ arg) :: rest → reservedOpcode op = true → s.halted = false →
    step s = .next { s with env.inputs := rest, out := { rsp := some { status := .illegalOp, data := 0 }, calls := [] } }

/-- 00_scope.md section 5 (R14) and 60_exceptions.md (R242; D21), with the model's form of the hang (log 8): every step answers a
next state, but for a render that `Present` never answers. -/
def Obligations.EveryStepAnswersUnlessPresentHangs : Prop :=
  ∀ s : State,
    (∃ t : State, step s = .next t) ∨
    (step s = .fault .presentNeverAnswers ∧ s.halted = false ∧ s.px.headless = false ∧ s.env.surface = .never ∧
      ∃ (arg : Half) (rest : List Input), s.env.inputs = .command ((0x8F : Byte) ++ arg) :: rest)

/-! ### Steps and encodings -/

/-- 30_encoding.md section 1 (R84; the spec's decisions D6, D21), with the command stream of log entry 1: a step performs the
decoded command. -/
def Obligations.StepRunsTheDecodedCommand : Prop :=
  ∀ (s : State) (w : Command) (rest : List Input) (i : Instr),
    s.env.inputs = .command w :: rest → decode w = .ok i → step s = exec i { s with env.inputs := rest }

/-- 70_reset_and_hazards.md section 5 (R295, R296; D33) in the model's form (log 1, 7, 9): what the other inputs do, and that a step
without input does nothing. -/
def Obligations.EnvironmentInputsChangeTheEnvironmentOnly : Prop :=
  (∀ s : State, s.env.inputs = [] → step s = .next { s with out := { rsp := none, calls := [] } }) ∧
  (∀ (s : State) (a : PresentAnswer) (rest : List Input), s.env.inputs = .surface a :: rest →
    step s = .next { s with env.inputs := rest, env.surface := a, out := { rsp := none, calls := [] } }) ∧
  (∀ (s : State) (addr : Half) (v : Byte) (rest : List Input),
    s.storesCanonical = true → s.env.inputs = .memory addr v :: rest →
    ∃ t : State, step s = .next t ∧ t.memByte addr = v ∧ (∀ a : Half, a ≠ addr → t.memByte a = s.memByte a) ∧
      t.rf = s.rf ∧ t.px = s.px ∧ t.halted = s.halted ∧ t.env.tiles = s.env.tiles ∧ t.env.surface = s.env.surface ∧
      t.env.inputs = rest) ∧
  ∀ (s : State) (offset : CellOffset) (v : Byte) (rest : List Input),
    s.storesCanonical = true → s.env.inputs = .tile offset v :: rest →
    ∃ t : State, step s = .next t ∧ t.tileIndex offset = v ∧ (∀ o : CellOffset, o ≠ offset → t.tileIndex o = s.tileIndex o) ∧
      t.rf = s.rf ∧ t.px = s.px ∧ t.halted = s.halted ∧ t.env.mem = s.env.mem ∧ t.env.surface = s.env.surface ∧
      t.env.inputs = rest

/-- The model's canonical form (log 5, 6): every step keeps it, from every state that has it. -/
def Obligations.StepKeepsStoresCanonical : Prop :=
  ∀ s t : State, s.storesCanonical = true → step s = .next t → t.storesCanonical = true

/-- The model's canonical form (log 5, 6) holds after reset under every strap. -/
def Obligations.ResetStoresAreCanonical : Prop :=
  ∀ headless surfaceOk : Bool, (State.resetWith headless surfaceOk).storesCanonical = true

/-- The model's canonical form (log 5, 6) is one: states that answer every read alike hold equal stores. The two states have one
`Config.mem` and one `Config.tileIndex` behind their stores, as two states of one instance have (log 17). -/
def Obligations.CanonicalStoresAreEqualData : Prop :=
  ∀ s t : State, s.storesCanonical = true → t.storesCanonical = true →
    (∀ addr : Half, s.memByte addr = t.memByte addr) → (∀ o : CellOffset, s.tileIndex o = t.tileIndex o) →
    s.env.mem = t.env.mem ∧ s.env.tiles = t.env.tiles

/-- 30_encoding.md sections 1 to 4 (R81, R85 to R88; the spec's decisions D2 to D5): decoding an encoded operation gives it back, for
every operation and every operand. -/
def Obligations.DecodingAnEncodedOperationGivesItBack : Prop :=
  ∀ i : Instr, decode (encode i) = .ok i

/-- 30_encoding.md sections 4 and 7 (R88, R92; D5, D27): every word an assembler emits is the encoding of what it decodes to. -/
def Obligations.EncodingADecodedAssemblerWordGivesItBack : Prop :=
  ∀ w : Command, Command.wellFormed w = true → ∃ i : Instr, decode w = .ok i ∧ encode i = w

/-- 30_encoding.md section 4 (R88; D5): the ignored `arg` bits never matter, and no other bit is ignored. -/
def Obligations.DecodingIgnoresExactlyTheUnusedBits : Prop :=
  ∀ (op : Byte) (f : OperandForm) (arg arg' : Half), opcodeForm op = some f →
    (decode (op ++ arg) = decode (op ++ arg') ↔ arg &&& ~~~f.ignored = arg' &&& ~~~f.ignored)

/-- 30_encoding.md section 3 (R87; D3): words written out from the table, one or more per group. -/
def Obligations.SampleWordsDecode : Prop :=
  decode 0x00ABCD = .ok .rfNew ∧ decode 0x170000 = .ok .getF ∧ decode 0x20AB12 = .ok (.setA 0x12) ∧
  decode 0x330000 = .ok .getAF ∧ decode 0x43BEEF = .ok (.setAF 0xBEEF) ∧ decode 0x540000 = .ok .getIme ∧
  decode 0x60FFFE = .ok (.setZero 0) ∧ decode 0x810000 = .ok .getStat ∧ decode 0x82FF00 = .ok (.setLcdc 0x00) ∧
  decode 0x88F0AA = .ok (.pxIlv 0xF0 0xAA) ∧ decode 0x89BEEF = .ok (.pxTaddr 0xBEEF) ∧ decode 0x8A0007 = .ok (.pxPal 3) ∧
  decode 0x8FFFFF = .ok .pxRender

/-! ### The debug port -/

/-- 60_exceptions.md section 7 (R260, R261; the spec's decision D23). -/
def Obligations.DebugPortShowsTheRegisterFileOnly : Prop :=
  (∀ s : State,
    s.debugPort.word.extractLsb' 89 8 = s.rf.a ∧ s.debugPort.word.extractLsb' 81 8 = s.rf.b ∧ s.debugPort.word.extractLsb' 73 8 = s.rf.c ∧
    s.debugPort.word.extractLsb' 65 8 = s.rf.d ∧ s.debugPort.word.extractLsb' 57 8 = s.rf.e ∧ s.debugPort.word.extractLsb' 49 8 = s.rf.h ∧
    s.debugPort.word.extractLsb' 41 8 = s.rf.l ∧ s.debugPort.word.extractLsb' 33 8 = s.rf.f ∧ s.debugPort.word.extractLsb' 17 16 = s.rf.sp ∧
    s.debugPort.word.extractLsb' 1 16 = s.rf.pc ∧ s.debugPort.word.extractLsb' 0 1 = s.rf.ime) ∧
  ∀ s t : State, s.rf = t.rf ↔ s.debugPort = t.debugPort
end

