-- ==== Sys2Proof/Laws/Decode.lean ====
section
/-! SUPPORT. The fields of a command word, the operand forms on an encoded operand, and the decoder on a word given by its two
fields. -/

namespace Sys2Proof

@[simp] theorem opField_append (op : Byte) (arg : Half) : opField (op ++ arg) = op := by
  unfold opField
  ext i hi
  simp only [BitVec.getElem_extractLsb', BitVec.getLsbD_append]
  rw [if_neg (by omega)]
  simp [BitVec.getLsbD_eq_getElem hi]

@[simp] theorem argField_append (op : Byte) (arg : Half) : argField (op ++ arg) = arg := by
  unfold argField
  ext i hi
  simp only [BitVec.getElem_extractLsb', BitVec.getLsbD_append]
  rw [if_pos (by omega)]
  simp [BitVec.getLsbD_eq_getElem hi]

/-- A command word is its opcode over its argument. -/
theorem opField_append_argField (w : Command) : opField w ++ argField w = w := by
  unfold opField argField
  ext i hi
  simp only [BitVec.getElem_append, BitVec.getElem_extractLsb']
  split <;> simp [BitVec.getLsbD_eq_getElem hi]
  have : 16 + (i - 16) = i := by omega
  simp [this, BitVec.getLsbD_eq_getElem hi]

/-- A word whose opcode is assigned decodes to the operation R87 gives it. -/
theorem decode_append_of_some {op : Byte} {arg : Half} {i : Instr} (h : decodeOp op.toNat arg = some i) :
    decode (op ++ arg) = .ok i := by
  unfold decode
  rw [opField_append, argField_append, h]

/-- A word whose opcode is reserved is rejected by name. -/
theorem decode_append_of_none {op : Byte} {arg : Half} (h : decodeOp op.toNat arg = none) :
    decode (op ++ arg) = .error (.reservedOpcode op) := by
  unfold decode
  rw [opField_append, argField_append, h]

@[simp] theorem formV1_setWidth (v : Bit) : formV1 (v.setWidth 16) = v := by
  unfold formV1
  ext i hi
  simp [BitVec.getLsbD_eq_getElem hi]; omega

@[simp] theorem formV2_setWidth (v : ColourIndex) : formV2 (v.setWidth 16) = v := by
  unfold formV2
  ext i hi
  simp [BitVec.getLsbD_eq_getElem hi]; omega

@[simp] theorem formV8_setWidth (v : Byte) : formV8 (v.setWidth 16) = v := by
  unfold formV8
  ext i hi
  simp [BitVec.getLsbD_eq_getElem hi]; omega

@[simp] theorem formV16_self (v : Half) : formV16 v = v := rfl

@[simp] theorem formHi_append (hi lo : Byte) : formHi (hi ++ lo) = hi := by
  unfold formHi
  ext i hi'
  simp only [BitVec.getElem_extractLsb', BitVec.getLsbD_append]
  rw [if_neg (by omega)]
  simp [BitVec.getLsbD_eq_getElem hi']

@[simp] theorem formLo_append (hi lo : Byte) : formLo (hi ++ lo) = lo := by
  unfold formLo
  ext i hi'
  simp only [BitVec.getElem_extractLsb', BitVec.getLsbD_append]
  rw [if_pos (by omega)]
  simp [BitVec.getLsbD_eq_getElem hi']

end Sys2Proof
end

