-- ==== Sys2Proof/Laws/State.lean ====
section
/-! SUPPORT. One lemma per field per named update of the state, so that no later proof unfolds a record update. -/

namespace Sys2Proof.Machine

@[simp] theorem respond_rf (s : State) (st : Status) (d : Word) (cs : List PortCall) : (s.respond st d cs).rf = s.rf := rfl
@[simp] theorem respond_px (s : State) (st : Status) (d : Word) (cs : List PortCall) : (s.respond st d cs).px = s.px := rfl
@[simp] theorem respond_halted (s : State) (st : Status) (d : Word) (cs : List PortCall) :
    (s.respond st d cs).halted = s.halted := rfl
@[simp] theorem respond_env (s : State) (st : Status) (d : Word) (cs : List PortCall) : (s.respond st d cs).env = s.env := rfl
@[simp] theorem respond_out (s : State) (st : Status) (d : Word) (cs : List PortCall) :
    (s.respond st d cs).out = { rsp := some { status := st, data := d }, calls := cs } := rfl

@[simp] theorem quiet_rf (s : State) : s.quiet.rf = s.rf := rfl
@[simp] theorem quiet_px (s : State) : s.quiet.px = s.px := rfl
@[simp] theorem quiet_halted (s : State) : s.quiet.halted = s.halted := rfl
@[simp] theorem quiet_env (s : State) : s.quiet.env = s.env := rfl
@[simp] theorem quiet_out (s : State) : s.quiet.out = { rsp := none, calls := [] } := rfl

@[simp] theorem failFatally_rf (s : State) : s.failFatally.rf = s.rf := rfl
@[simp] theorem failFatally_px (s : State) : s.failFatally.px = s.px := rfl
@[simp] theorem failFatally_halted (s : State) : s.failFatally.halted = true := rfl
@[simp] theorem failFatally_env (s : State) : s.failFatally.env = s.env := rfl
@[simp] theorem failFatally_out (s : State) : s.failFatally.out = s.out := rfl

@[simp] theorem raisePresentFailure_rf (s : State) (cs : List PortCall) : (raisePresentFailure s cs).rf = s.rf := rfl
@[simp] theorem raisePresentFailure_px (s : State) (cs : List PortCall) : (raisePresentFailure s cs).px = s.px := rfl
@[simp] theorem raisePresentFailure_halted (s : State) (cs : List PortCall) : (raisePresentFailure s cs).halted = true := rfl
@[simp] theorem raisePresentFailure_env (s : State) (cs : List PortCall) : (raisePresentFailure s cs).env = s.env := rfl
@[simp] theorem raisePresentFailure_out (s : State) (cs : List PortCall) :
    (raisePresentFailure s cs).out = { rsp := some { status := .presentFail, data := 0 }, calls := cs } := rfl

@[simp] theorem resetBlock_px (h k : Bool) (s : State) :
    (resetBlock h k s).px = { lcdc := Config.lcdcReset, stat := Config.statReset, headless := h } := by
  cases h <;> cases k <;> rfl
@[simp] theorem resetBlock_rf (h k : Bool) (s : State) : (resetBlock h k s).rf = loadSnapshot s.rf := by
  cases h <;> cases k <;> rfl
@[simp] theorem resetBlock_halted (h k : Bool) (s : State) : (resetBlock h k s).halted = (!h && !k) := by
  cases h <;> cases k <;> rfl
@[simp] theorem resetBlock_env (h k : Bool) (s : State) : (resetBlock h k s).env = s.env := by
  cases h <;> cases k <;> rfl
@[simp] theorem resetBlock_out (h k : Bool) (s : State) : (resetBlock h k s).out = { rsp := none, calls := [] } := by
  cases h <;> cases k <;> rfl

@[simp] theorem changeMemory_rf (a : Half) (v : Byte) (s : State) : (changeMemory a v s).rf = s.rf := rfl
@[simp] theorem changeMemory_px (a : Half) (v : Byte) (s : State) : (changeMemory a v s).px = s.px := rfl
@[simp] theorem changeMemory_halted (a : Half) (v : Byte) (s : State) : (changeMemory a v s).halted = s.halted := rfl
@[simp] theorem changeMemory_env (a : Half) (v : Byte) (s : State) :
    (changeMemory a v s).env = { s.env with mem := Memory.write memBase s.env.mem a.toNat v } := rfl
@[simp] theorem changeMemory_out (a : Half) (v : Byte) (s : State) : (changeMemory a v s).out = { rsp := none, calls := [] } := rfl

@[simp] theorem changeTile_rf (o : CellOffset) (v : Byte) (s : State) : (changeTile o v s).rf = s.rf := rfl
@[simp] theorem changeTile_px (o : CellOffset) (v : Byte) (s : State) : (changeTile o v s).px = s.px := rfl
@[simp] theorem changeTile_halted (o : CellOffset) (v : Byte) (s : State) : (changeTile o v s).halted = s.halted := rfl
@[simp] theorem changeTile_env (o : CellOffset) (v : Byte) (s : State) :
    (changeTile o v s).env = { s.env with tiles := Memory.write tileBase s.env.tiles o.toNat v } := rfl
@[simp] theorem changeTile_out (o : CellOffset) (v : Byte) (s : State) : (changeTile o v s).out = { rsp := none, calls := [] } := rfl

@[simp] theorem changeSurface_rf (a : PresentAnswer) (s : State) : (changeSurface a s).rf = s.rf := rfl
@[simp] theorem changeSurface_px (a : PresentAnswer) (s : State) : (changeSurface a s).px = s.px := rfl
@[simp] theorem changeSurface_halted (a : PresentAnswer) (s : State) : (changeSurface a s).halted = s.halted := rfl
@[simp] theorem changeSurface_env (a : PresentAnswer) (s : State) :
    (changeSurface a s).env = { s.env with surface := a } := rfl
@[simp] theorem changeSurface_out (a : PresentAnswer) (s : State) : (changeSurface a s).out = { rsp := none, calls := [] } := rfl

end Sys2Proof.Machine
end

