-- ==== Sys2Proof/Laws/Ops.lean ====
section
/-! SUPPORT. One lemma per shared operation that says everything it can do, and the forms of a step. -/

namespace Sys2Proof.Machine

/-- A command to a halted instance (R244). -/
theorem whenRunning_halted {s : State} (o : Host.Outcome State Fault Refusal) (h : s.halted = true) :
    whenRunning s o = .next (s.respond .halted 0 []) := by
  simp [whenRunning, h]

/-- A command to an instance that runs. -/
theorem whenRunning_running {s : State} (o : Host.Outcome State Fault Refusal) (h : s.halted = false) :
    whenRunning s o = o := by
  simp [whenRunning, h]

/-- Everything a gated operation can do when it answers a next state. -/
theorem whenRunning_next {s t : State} {o : Host.Outcome State Fault Refusal} (h : whenRunning s o = .next t) :
    (s.halted = true ∧ t = s.respond .halted 0 []) ∨ (s.halted = false ∧ o = .next t) := by
  cases hs : s.halted with
  | true => rw [whenRunning_halted o hs] at h; cases h; exact .inl ⟨rfl, rfl⟩
  | false => rw [whenRunning_running o hs] at h; exact .inr ⟨rfl, h⟩

/-- A read command always answers a next state, which differs in the response only. -/
theorem readCommand_eq (s : State) (d : Word) :
    readCommand s d = .next (if s.halted then s.respond .halted 0 [] else s.respond .ok d []) := by
  unfold readCommand whenRunning answer
  split <;> rfl

/-- A register-file write always answers a next state. -/
theorem writeRegFile_eq (s : State) (rf : RegFile) :
    writeRegFile s rf =
      .next (if s.halted then s.respond .halted 0 [] else { s with rf := rf }.respond .ok 0 []) := by
  unfold writeRegFile whenRunning done
  split <;> rfl

/-- A pixel decoder write always answers a next state. -/
theorem writePixel_eq (s : State) (px : PixelDecoder) :
    writePixel s px =
      .next (if s.halted then s.respond .halted 0 [] else { s with px := px }.respond .ok 0 []) := by
  unfold writePixel whenRunning done
  split <;> rfl

/-- A reserved opcode always answers a next state, which differs in the response only. -/
theorem illegalOp_eq (s : State) :
    illegalOp s = .next (s.respond (if s.halted then .halted else .illegalOp) 0 []) := by
  unfold illegalOp whenRunning
  split <;> rfl

/-- Everything the hand-over of a frame can do when it answers a next state. -/
theorem presentFrame_next {s t : State} {cs : List PortCall} {fb : Frame} (h : presentFrame s cs fb = .next t) :
    (s.env.surface = .ok ∧ t = s.respond .ok 0 (cs ++ [.present fb 256 256])) ∨
    (s.env.surface = .err ∧ t = raisePresentFailure s (cs ++ [.present fb 256 256])) := by
  unfold presentFrame at h
  split at h
  · next hs => cases h; exact .inl ⟨hs, rfl⟩
  · next hs => cases h; exact .inr ⟨hs, rfl⟩
  · cases h

/-- Everything PX.RENDER can do when it answers a next state. -/
theorem execPxRender_next {s t : State} (h : execPxRender s = .next t) :
    (s.halted = true ∧ t = s.respond .halted 0 []) ∨
    (s.halted = false ∧ s.px.headless = true ∧ t = s.respond .ok 0 []) ∨
    (s.halted = false ∧ s.px.headless = false ∧ s.env.surface = .ok ∧
      t = s.respond .ok 0 (renderCalls s ++ [.present (renderFrame s) 256 256])) ∨
    (s.halted = false ∧ s.px.headless = false ∧ s.env.surface = .err ∧
      t = raisePresentFailure s (renderCalls s ++ [.present (renderFrame s) 256 256])) := by
  rcases whenRunning_next h with h | ⟨hr, h⟩
  · exact .inl h
  · split at h
    · next hh => cases h; exact .inr (.inl ⟨hr, hh, rfl⟩)
    · next hh =>
      have hh : s.px.headless = false := by simpa using hh
      rcases presentFrame_next h with ⟨hs, ht⟩ | ⟨hs, ht⟩
      · exact .inr (.inr (.inl ⟨hr, hh, hs, ht⟩))
      · exact .inr (.inr (.inr ⟨hr, hh, hs, ht⟩))

@[simp] theorem acceptInput_nil {s : State} (h : s.env.inputs = []) : acceptInput s = none := by
  unfold acceptInput; rw [h]

@[simp] theorem acceptInput_cons {s : State} {i : Input} {rest : List Input} (h : s.env.inputs = i :: rest) :
    acceptInput s = some (i, { s with env.inputs := rest }) := by
  unfold acceptInput; rw [h]

/-- Everything a step can do, by the next input. -/
theorem step_cases (s : State) :
    (s.env.inputs = [] ∧ step s = .next s.quiet) ∨
    (∃ w rest i, s.env.inputs = .command w :: rest ∧ decode w = .ok i ∧ step s = exec i { s with env.inputs := rest }) ∨
    (∃ w rest e, s.env.inputs = .command w :: rest ∧ decode w = .error e ∧ step s = illegalOp { s with env.inputs := rest }) ∨
    (∃ h k rest, s.env.inputs = .reset h k :: rest ∧ step s = .next (resetBlock h k { s with env.inputs := rest })) ∨
    (∃ a v rest, s.env.inputs = .memory a v :: rest ∧ step s = .next (changeMemory a v { s with env.inputs := rest })) ∨
    (∃ o v rest, s.env.inputs = .tile o v :: rest ∧ step s = .next (changeTile o v { s with env.inputs := rest })) ∨
    (∃ a rest, s.env.inputs = .surface a :: rest ∧ step s = .next (changeSurface a { s with env.inputs := rest })) := by
  cases hi : s.env.inputs with
  | nil => exact .inl ⟨rfl, by simp [step, hi]⟩
  | cons i rest =>
    right
    cases i with
    | command w =>
      cases hd : decode w with
      | ok i => exact .inl ⟨w, rest, i, rfl, hd, by simp [step, acceptInput_cons hi, hd]⟩
      | error e => exact .inr (.inl ⟨w, rest, e, rfl, hd, by simp [step, acceptInput_cons hi, hd]⟩)
    | reset h k => exact .inr (.inr (.inl ⟨h, k, rest, rfl, by simp [step, acceptInput_cons hi]⟩))
    | memory a v => exact .inr (.inr (.inr (.inl ⟨a, v, rest, rfl, by simp [step, acceptInput_cons hi]⟩)))
    | tile o v => exact .inr (.inr (.inr (.inr (.inl ⟨o, v, rest, rfl, by simp [step, acceptInput_cons hi]⟩))))
    | surface a => exact .inr (.inr (.inr (.inr (.inr ⟨a, rest, rfl, by simp [step, acceptInput_cons hi]⟩))))

end Sys2Proof.Machine
end

