-- ==== Sys2Proof/Laws/PerInstr.lean ====
section
/-! SUPPORT. Facts about each operation as syntax, one lemma per constructor (the family Encoding of LAWS.json): the opcode has the
operation's operand form in the map of R87, and the encoded word is the one an assembler emits (R92). -/

namespace Sys2Proof.Laws

/-- A word with an assigned opcode whose ignored bits are zero is well formed. -/
theorem wellFormed_append {op : Byte} {arg : Half} {f : OperandForm} (hf : opcodeForm op = some f)
    (ha : arg &&& f.ignored = 0) : Command.wellFormed (op ++ arg) = true := by
  have ho : BitVec.extractLsb' 16 8 (op ++ arg) = op := opField_append op arg
  have hb : BitVec.extractLsb' 0 16 (op ++ arg) = arg := argField_append op arg
  simp [Command.wellFormed, Command.assigned, Command.ignoredBitsZero, ho, hb, hf, ha]

theorem v8_ignored (v : Byte) : (v.setWidth 16 : Half) &&& OperandForm.v8.ignored = 0 := by
  revert v; decide

theorem v2_ignored (v : ColourIndex) : (v.setWidth 16 : Half) &&& OperandForm.v2.ignored = 0 := by
  revert v; decide

theorem v1_ignored (v : Bit) : (v.setWidth 16 : Half) &&& OperandForm.v1.ignored = 0 := by
  revert v; decide

theorem v16_ignored (v : Half) : v &&& OperandForm.v16.ignored = 0 := by
  simp [OperandForm.ignored]

end Sys2Proof.Laws

namespace Sys2Proof.Laws.Encoding

/-- The opcode carries the operation's operand form, and its word is well formed. -/
def Statement (i : Instr) : Prop :=
  opcodeForm i.opcode = some i.form ∧ Command.wellFormed (encode i) = true

/-- The statement from the opcode, the operand form and the operand field. -/
theorem intro {i : Instr} (op : Byte) (f : OperandForm) (hop : i.opcode = op) (hform : i.form = f)
    (hf : opcodeForm op = some f) (ha : i.arg &&& f.ignored = 0) : Statement i := by
  subst hop hform
  exact ⟨hf, wellFormed_append hf ha⟩

theorem rfNew : Statement .rfNew := intro 0x00 .none rfl rfl rfl rfl
theorem getA : Statement .getA := intro 0x10 .none rfl rfl rfl rfl
theorem getB : Statement .getB := intro 0x11 .none rfl rfl rfl rfl
theorem getC : Statement .getC := intro 0x12 .none rfl rfl rfl rfl
theorem getD : Statement .getD := intro 0x13 .none rfl rfl rfl rfl
theorem getE : Statement .getE := intro 0x14 .none rfl rfl rfl rfl
theorem getH : Statement .getH := intro 0x15 .none rfl rfl rfl rfl
theorem getL : Statement .getL := intro 0x16 .none rfl rfl rfl rfl
theorem getF : Statement .getF := intro 0x17 .none rfl rfl rfl rfl
theorem setA (v : Byte) : Statement (.setA v) := intro 0x20 .v8 rfl rfl rfl (v8_ignored v)
theorem setB (v : Byte) : Statement (.setB v) := intro 0x21 .v8 rfl rfl rfl (v8_ignored v)
theorem setC (v : Byte) : Statement (.setC v) := intro 0x22 .v8 rfl rfl rfl (v8_ignored v)
theorem setD (v : Byte) : Statement (.setD v) := intro 0x23 .v8 rfl rfl rfl (v8_ignored v)
theorem setE (v : Byte) : Statement (.setE v) := intro 0x24 .v8 rfl rfl rfl (v8_ignored v)
theorem setH (v : Byte) : Statement (.setH v) := intro 0x25 .v8 rfl rfl rfl (v8_ignored v)
theorem setL (v : Byte) : Statement (.setL v) := intro 0x26 .v8 rfl rfl rfl (v8_ignored v)
theorem setF (v : Byte) : Statement (.setF v) := intro 0x27 .v8 rfl rfl rfl (v8_ignored v)
theorem getBC : Statement .getBC := intro 0x30 .none rfl rfl rfl rfl
theorem getDE : Statement .getDE := intro 0x31 .none rfl rfl rfl rfl
theorem getHL : Statement .getHL := intro 0x32 .none rfl rfl rfl rfl
theorem getAF : Statement .getAF := intro 0x33 .none rfl rfl rfl rfl
theorem getSP : Statement .getSP := intro 0x34 .none rfl rfl rfl rfl
theorem getPC : Statement .getPC := intro 0x35 .none rfl rfl rfl rfl
theorem setBC (v : Half) : Statement (.setBC v) := intro 0x40 .v16 rfl rfl rfl (v16_ignored v)
theorem setDE (v : Half) : Statement (.setDE v) := intro 0x41 .v16 rfl rfl rfl (v16_ignored v)
theorem setHL (v : Half) : Statement (.setHL v) := intro 0x42 .v16 rfl rfl rfl (v16_ignored v)
theorem setAF (v : Half) : Statement (.setAF v) := intro 0x43 .v16 rfl rfl rfl (v16_ignored v)
theorem setSP (v : Half) : Statement (.setSP v) := intro 0x44 .v16 rfl rfl rfl (v16_ignored v)
theorem setPC (v : Half) : Statement (.setPC v) := intro 0x45 .v16 rfl rfl rfl (v16_ignored v)
theorem getZero : Statement .getZero := intro 0x50 .none rfl rfl rfl rfl
theorem getSubtract : Statement .getSubtract := intro 0x51 .none rfl rfl rfl rfl
theorem getHalfCarry : Statement .getHalfCarry := intro 0x52 .none rfl rfl rfl rfl
theorem getCarry : Statement .getCarry := intro 0x53 .none rfl rfl rfl rfl
theorem getIme : Statement .getIme := intro 0x54 .none rfl rfl rfl rfl
theorem setZero (v : Bit) : Statement (.setZero v) := intro 0x60 .v1 rfl rfl rfl (v1_ignored v)
theorem setSubtract (v : Bit) : Statement (.setSubtract v) := intro 0x61 .v1 rfl rfl rfl (v1_ignored v)
theorem setHalfCarry (v : Bit) : Statement (.setHalfCarry v) := intro 0x62 .v1 rfl rfl rfl (v1_ignored v)
theorem setCarry (v : Bit) : Statement (.setCarry v) := intro 0x63 .v1 rfl rfl rfl (v1_ignored v)
theorem setIme (v : Bit) : Statement (.setIme v) := intro 0x64 .v1 rfl rfl rfl (v1_ignored v)
theorem getLcdc : Statement .getLcdc := intro 0x80 .none rfl rfl rfl rfl
theorem getStat : Statement .getStat := intro 0x81 .none rfl rfl rfl rfl
theorem setLcdc (v : Byte) : Statement (.setLcdc v) := intro 0x82 .v8 rfl rfl rfl (v8_ignored v)
theorem setStat (v : Byte) : Statement (.setStat v) := intro 0x83 .v8 rfl rfl rfl (v8_ignored v)
theorem pxIlv (hi lo : Byte) : Statement (.pxIlv hi lo) := intro 0x88 .hiLo rfl rfl rfl (v16_ignored (hi ++ lo))
theorem pxTaddr (off : Half) : Statement (.pxTaddr off) := intro 0x89 .v16 rfl rfl rfl (v16_ignored off)
theorem pxPal (ix : ColourIndex) : Statement (.pxPal ix) := intro 0x8A .v2 rfl rfl rfl (v2_ignored ix)
theorem pxRender : Statement .pxRender := intro 0x8F .none rfl rfl rfl rfl

end Sys2Proof.Laws.Encoding
end

