-- ==== Sys2Proof/Laws/Stores.lean ====
section
/-! SUPPORT. The laws of the sparse stores (memory and tile indices): a write is read back, leaves every other key alone, and
keeps the canonical form. -/

namespace Sys2Proof.Machine

variable {base : Nat → Byte} {size : Nat}

@[simp] theorem Memory.find?_nil (k : Nat) : Memory.find? [] k = none := rfl

@[simp] theorem Memory.find?_cons (c : Host.Cell) (m : Memory) (k : Nat) :
    Memory.find? (c :: m) k = if c.1 = k then some c.2 else Memory.find? m k := rfl

@[simp] theorem Memory.wf_nil : Memory.wf base size [] = true := rfl

/-- The canonical form, one entry at a time. -/
theorem Memory.wf_cons {c : Host.Cell} {m : Memory} :
    Memory.wf base size (c :: m) = true ↔
      c.1 < size ∧ c.2 ≠ base c.1 ∧ (∀ c' ∈ m, c.1 < c'.1) ∧ Memory.wf base size m = true := by
  simp [Memory.wf, List.all_eq_true, and_assoc]

/-- A key below every listed key is not listed. -/
theorem Memory.find?_eq_none_of_lt {m : Memory} {k : Nat} (h : ∀ c ∈ m, k < c.1) : m.find? k = none := by
  induction m with
  | nil => rfl
  | cons c m ih =>
    have hc := h c (by simp)
    have : c.1 ≠ k := by omega
    simp [this, ih (fun c' h' => h c' (by simp [h']))]

/-- A key below every listed key reads as unlisted. -/
theorem Memory.read_of_lt {m : Memory} {k : Nat} (h : ∀ c ∈ m, k < c.1) : Memory.read base m k = base k := by
  simp [Memory.read, Memory.find?_eq_none_of_lt h]

theorem Memory.read_nil (k : Nat) : Memory.read base [] k = base k := rfl

theorem Memory.read_cons (c : Host.Cell) (m : Memory) (k : Nat) :
    Memory.read base (c :: m) k = if c.1 = k then c.2 else Memory.read base m k := by
  unfold Memory.read
  rw [Memory.find?_cons]
  split <;> rfl

/-- The keys of a written store are the written key and keys listed before. -/
theorem Memory.key_of_mem_write {m : Memory} {k : Nat} {v : Byte} {c : Host.Cell}
    (h : c ∈ Memory.write base m k v) : c.1 = k ∨ c ∈ m := by
  induction m with
  | nil => unfold Memory.write at h; split at h <;> simp_all
  | cons d m ih =>
    have key : c ∈ (k, v) :: d :: m ∨ c ∈ d :: Memory.write base m k v := by
      unfold Memory.write at h
      split at h
      · split at h
        · exact .inl (List.mem_cons_of_mem _ h)
        · exact .inl h
      · split at h
        · split at h
          · exact .inl (by simp [h])
          · exact .inl ((List.mem_cons.1 h).elim (fun e => by simp [e]) (fun e => by simp [e]))
        · exact .inr h
    rcases key with h | h
    · exact (List.mem_cons.1 h).imp (fun e => by rw [e]) id
    · exact (List.mem_cons.1 h).elim (fun e => .inr (by simp [e])) (fun e => (ih e).imp id (List.mem_cons_of_mem _))

/-- Every write keeps the canonical form. -/
theorem Memory.wf_write {m : Memory} {k : Nat} (v : Byte) (hm : Memory.wf base size m = true) (hk : k < size) :
    Memory.wf base size (Memory.write base m k v) = true := by
  induction m with
  | nil => unfold Memory.write; split <;> simp_all [Memory.wf_cons]
  | cons d m ih =>
    obtain ⟨hd, hne, hlt, hwf⟩ := Memory.wf_cons.1 hm
    unfold Memory.write
    split
    · next hkd =>
      split
      · exact hm
      · next hv =>
        refine Memory.wf_cons.2 ⟨hk, hv, fun c hc => ?_, hm⟩
        rcases List.mem_cons.1 hc with rfl | hc
        · exact hkd
        · exact lt_trans hkd (hlt c hc)
    · next hkd =>
      split
      · next he =>
        split
        · exact hwf
        · next hv => exact Memory.wf_cons.2 ⟨hk, hv, fun c hc => he ▸ hlt c hc, hwf⟩
      · next he =>
        refine Memory.wf_cons.2 ⟨hd, hne, fun c hc => ?_, ih hwf⟩
        rcases Memory.key_of_mem_write hc with h | h
        · omega
        · exact hlt c h

/-- A read of another key is not changed by a write. -/
theorem Memory.read_write_other {m : Memory} {k j : Nat} (v : Byte) (hj : j ≠ k) (hm : Memory.wf base size m = true) :
    Memory.read base (Memory.write base m k v) j = Memory.read base m j := by
  induction m with
  | nil => unfold Memory.write; split <;> simp [Memory.read_nil, Memory.read_cons, hj.symm]
  | cons d m ih =>
    obtain ⟨-, -, hlt, hwf⟩ := Memory.wf_cons.1 hm
    unfold Memory.write
    split
    · split <;> simp [Memory.read_cons, hj.symm]
    · split
      · next he =>
        have hdj : d.1 ≠ j := fun h => hj (by omega)
        split <;> simp [Memory.read_cons, hdj, hj.symm]
      · simp only [Memory.read_cons, ih hwf]

/-- A read after a write to the same key gives the value written. -/
theorem Memory.read_write_same {m : Memory} {k : Nat} (v : Byte) (hm : Memory.wf base size m = true) :
    Memory.read base (Memory.write base m k v) k = v := by
  induction m with
  | nil => unfold Memory.write; split <;> simp_all [Memory.read_nil, Memory.read_cons]
  | cons d m ih =>
    obtain ⟨-, -, hlt, hwf⟩ := Memory.wf_cons.1 hm
    unfold Memory.write
    split
    · next hkd =>
      split
      · next hv =>
        rw [hv]
        refine Memory.read_of_lt fun c hc => ?_
        rcases List.mem_cons.1 hc with rfl | hc
        · exact hkd
        · exact lt_trans hkd (hlt c hc)
      · simp [Memory.read_cons]
    · split
      · next he =>
        split
        · next hv => rw [hv]; exact Memory.read_of_lt fun c hc => he ▸ hlt c hc
        · simp [Memory.read_cons]
      · next hlt' he =>
        have : d.1 ≠ k := fun h => he h.symm
        simp [Memory.read_cons, this, ih hwf]

end Sys2Proof.Machine
end

