-- ==== Sys2Proof/Tests/Slice0.lean ====
section
/-! SUPPORT. Tests on words and values of the spec's own vectors (95_test_vectors.md, named V-...), the smoke test of WellFormed,
and for each obligation with hypotheses one theorem that meets them. -/

open Sys2Proof Sys2Proof.Machine

namespace Sys2Proof.Tests

/-! ### States and readings -/

/-- A headless instance after reset with `SET.LCDC 0x10` and `SET.STAT 0x00`: the start state of the V-ENC vectors. -/
def bench : State := { State.resetWith true true with px := { lcdc := 0x10, stat := 0x00, headless := true } }

/-- The same start in signed mode. -/
def benchSigned : State := { bench with px.lcdc := 0x00 }

/-- An instance with a surface, `lcdc = 0x10`, the byte pair `0xF0 0xAA` at `0x8000`, tile index 0 in cells 0 and 1023 (V-RND-3). -/
def screen : State :=
  { State.resetWith false true with
    px := { lcdc := 0x10, stat := 0x00, headless := false }
    env := { mem := [(0x8000, 0xF0), (0x8001, 0xAA)], tiles := [(0, 0x00), (1023, 0x00)], surface := .ok, inputs := [] } }

/-- An instance whose surface did not come up (V-EXC-2). -/
def dead : State := State.resetWith false false

def answered (s : State) (w : Command) : Option Response :=
  match step (sendNext s w) with
  | .next t => t.out.rsp
  | .fault _ => none
  | .refused _ => none

def after {α : Type} (s : State) (w : Command) (f : State → α) : Option α :=
  match step (sendNext s w) with
  | .next t => some (f t)
  | .fault _ => none
  | .refused _ => none

def okay (d : Word) : Option Response := some { status := .ok, data := d }

def illegal : Option Response := some { status := .illegalOp, data := 0 }

def haltedAnswer : Option Response := some { status := .halted, data := 0 }

/-! ### WellFormed: an ill-formed word for each check -/

theorem test_wf_refuses_reserved_opcode : Command.assigned 0x700000 = false ∧ Command.wellFormed 0x700000 = false := by decide

theorem test_wf_refuses_ignored_bits :
    Command.assigned 0x20AB12 = true ∧ Command.ignoredBitsZero 0x20AB12 = false ∧ Command.wellFormed 0x20AB12 = false := by decide

theorem test_wf_accepts : Command.wellFormed 0x200012 = true ∧ Command.wellFormed 0x88F0AA = true := by decide

/-! ### Decoding: V-ENC-1 to V-ENC-47, one word for every operation -/

theorem test_decode_field_reads :
    decode 0x000000 = .ok .rfNew ∧ decode 0x100000 = .ok .getA ∧ decode 0x110000 = .ok .getB ∧ decode 0x120000 = .ok .getC ∧
    decode 0x130000 = .ok .getD ∧ decode 0x140000 = .ok .getE ∧ decode 0x150000 = .ok .getH ∧ decode 0x160000 = .ok .getL ∧
    decode 0x170000 = .ok .getF := by refine ⟨?_, ?_, ?_, ?_, ?_, ?_, ?_, ?_, ?_⟩ <;> rfl

theorem test_decode_field_writes :
    decode 0x2000A5 = .ok (.setA 0xA5) ∧ decode 0x2100A5 = .ok (.setB 0xA5) ∧ decode 0x2200A5 = .ok (.setC 0xA5) ∧
    decode 0x2300A5 = .ok (.setD 0xA5) ∧ decode 0x2400A5 = .ok (.setE 0xA5) ∧ decode 0x2500A5 = .ok (.setH 0xA5) ∧
    decode 0x2600A5 = .ok (.setL 0xA5) ∧ decode 0x2700A5 = .ok (.setF 0xA5) := by
  refine ⟨?_, ?_, ?_, ?_, ?_, ?_, ?_, ?_⟩ <;> rfl

theorem test_decode_wide :
    decode 0x300000 = .ok .getBC ∧ decode 0x310000 = .ok .getDE ∧ decode 0x320000 = .ok .getHL ∧ decode 0x330000 = .ok .getAF ∧
    decode 0x340000 = .ok .getSP ∧ decode 0x350000 = .ok .getPC ∧ decode 0x40BEEF = .ok (.setBC 0xBEEF) ∧
    decode 0x41BEEF = .ok (.setDE 0xBEEF) ∧ decode 0x42BEEF = .ok (.setHL 0xBEEF) ∧ decode 0x43BEEF = .ok (.setAF 0xBEEF) ∧
    decode 0x44BEEF = .ok (.setSP 0xBEEF) ∧ decode 0x45BEEF = .ok (.setPC 0xBEEF) := by
  refine ⟨?_, ?_, ?_, ?_, ?_, ?_, ?_, ?_, ?_, ?_, ?_, ?_⟩ <;> rfl

theorem test_decode_bits :
    decode 0x500000 = .ok .getZero ∧ decode 0x510000 = .ok .getSubtract ∧ decode 0x520000 = .ok .getHalfCarry ∧
    decode 0x530000 = .ok .getCarry ∧ decode 0x540000 = .ok .getIme ∧ decode 0x600000 = .ok (.setZero 0) ∧
    decode 0x610001 = .ok (.setSubtract 1) ∧ decode 0x620000 = .ok (.setHalfCarry 0) ∧ decode 0x630001 = .ok (.setCarry 1) ∧
    decode 0x640003 = .ok (.setIme 1) ∧ decode 0x64FFFE = .ok (.setIme 0) := by
  refine ⟨?_, ?_, ?_, ?_, ?_, ?_, ?_, ?_, ?_, ?_, ?_⟩ <;> rfl

theorem test_decode_pixel :
    decode 0x800000 = .ok .getLcdc ∧ decode 0x810000 = .ok .getStat ∧ decode 0x8200A5 = .ok (.setLcdc 0xA5) ∧
    decode 0x8300A5 = .ok (.setStat 0xA5) ∧ decode 0x88F0AA = .ok (.pxIlv 0xF0 0xAA) ∧ decode 0x89BEEF = .ok (.pxTaddr 0xBEEF) ∧
    decode 0x8A0002 = .ok (.pxPal 2) ∧ decode 0x8AFFFE = .ok (.pxPal 2) ∧ decode 0x8F0000 = .ok .pxRender := by
  refine ⟨?_, ?_, ?_, ?_, ?_, ?_, ?_, ?_, ?_⟩ <;> rfl

/-- R92's examples, the other way round. -/
theorem test_encode :
    encode (.setBC 0xBEEF) = 0x40BEEF ∧ encode .getAF = 0x330000 ∧ encode (.pxIlv 0xF0 0xAA) = 0x88F0AA ∧
    encode (.setIme 1) = 0x640001 ∧ encode (.pxPal 3) = 0x8A0003 ∧ encode .pxRender = 0x8F0000 := by decide

/-- The interface of the opcode table: 24-bit words. -/
theorem test_table_words :
    decodeTableWord 24 0x43BEEF = some (.setAF 0xBEEF) ∧ decodeTableWord 24 0x010000 = none := by decide

/-- V-ENC-60, V-ENC-65, V-ENC-76, V-ENC-79, V-ENC-80, V-ENC-81. -/
theorem test_reserved_opcodes :
    answered bench 0x010000 = illegal ∧ answered bench 0x2FFFFF = illegal ∧ answered bench 0x840000 = illegal ∧
    answered bench 0x8EFFFF = illegal ∧ answered bench 0x900000 = illegal ∧ answered bench 0xFFFFFF = illegal ∧
    after bench 0xFFFFFF (·.rf) = some bench.rf := by decide

/-! ### Register file -/

/-- V-FLD-1 to V-FLD-7, V-FLD-18, V-ENC-48. -/
theorem test_get_fields :
    answered bench 0x100000 = okay 0x01 ∧ answered bench 0x10FFFF = okay 0x01 ∧ answered bench 0x110000 = okay 0x00 ∧
    answered bench 0x120000 = okay 0x13 ∧ answered bench 0x130000 = okay 0x00 ∧ answered bench 0x140000 = okay 0xD8 ∧
    answered bench 0x150000 = okay 0x01 ∧ answered bench 0x160000 = okay 0x4D ∧ answered bench 0x340000 = okay 0xFFFE ∧
    answered bench 0x350000 = okay 0x0100 ∧ answered bench 0x540000 = okay 1 := by decide

/-- V-FLD-8 to V-FLD-14. -/
theorem test_set_fields :
    after bench 0x2000FF (·.rf) = some { bench.rf with a := 0xFF } ∧ after bench 0x210080 (·.rf) = some { bench.rf with b := 0x80 } ∧
    after bench 0x220000 (·.rf) = some { bench.rf with c := 0x00 } ∧ after bench 0x23007F (·.rf) = some { bench.rf with d := 0x7F } ∧
    after bench 0x240001 (·.rf) = some { bench.rf with e := 0x01 } ∧ after bench 0x2500AA (·.rf) = some { bench.rf with h := 0xAA } ∧
    after bench 0x260055 (·.rf) = some { bench.rf with l := 0x55 } := by decide

/-- V-FLD-20, V-FLD-24, V-FLD-25, V-ENC-52. -/
theorem test_set_sp_pc_ime :
    after bench 0x44FFFF (·.rf) = some { bench.rf with sp := 0xFFFF } ∧ after bench 0x450101 (·.rf) = some { bench.rf with pc := 0x0101 } ∧
    after bench 0x640000 (·.rf) = some { bench.rf with ime := 0 } ∧ after bench 0x64FFFE (·.rf) = some { bench.rf with ime := 0 } := by decide

/-- V-FLD-28, V-FLD-29: the snapshot comes back from any register file, `lcdc` and `stat` stay. -/
theorem test_rfNew :
    after { bench with rf := { a := 0xFF, b := 0xFF, c := 0xFF, d := 0xFF, e := 0xFF, h := 0xFF, l := 0xFF
                               fl := { zero := 1, subtract := 1, halfCarry := 1, carry := 1 }
                               sp := 0xFFFF, pc := 0xFFFF, ime := 0 }
                       px := { lcdc := 0xEF, stat := 0x85, headless := true } } 0x000000 (fun t => (t.rf, t.px.lcdc, t.px.stat)) =
      some (bench.rf, 0xEF, 0x85) := by decide

/-- V-PAIR-1 to V-PAIR-4. -/
theorem test_get_pairs :
    answered bench 0x300000 = okay 0x0013 ∧ answered bench 0x310000 = okay 0x00D8 ∧ answered bench 0x320000 = okay 0x014D ∧
    answered bench 0x330000 = okay 0x01B0 := by decide

/-- V-PAIR-5, V-PAIR-6, V-PAIR-7, V-PAIR-21. -/
theorem test_set_pairs :
    after bench 0x40BEEF (·.rf) = some { bench.rf with b := 0xBE, c := 0xEF } ∧
    after bench 0x411234 (·.rf) = some { bench.rf with d := 0x12, e := 0x34 } ∧
    after bench 0x428001 (·.rf) = some { bench.rf with h := 0x80, l := 0x01 } ∧
    after bench 0x43AB5A (·.rf) =
      some { bench.rf with a := 0xAB, fl := { zero := 0, subtract := 1, halfCarry := 0, carry := 1 } } := by decide

/-- V-FLG-14 to V-FLG-18. -/
theorem test_get_flags :
    answered bench 0x170000 = okay 0xB0 ∧ answered bench 0x500000 = okay 1 ∧ answered bench 0x510000 = okay 0 ∧
    answered bench 0x520000 = okay 1 ∧ answered bench 0x530000 = okay 1 := by decide

/-- V-FLG-19, V-FLG-21, V-FLG-23, V-FLG-25: the packed byte after one flag write. -/
theorem test_set_flags :
    after bench 0x600000 (·.rf.f) = some 0x30 ∧ after bench 0x610001 (·.rf.f) = some 0xF0 ∧
    after bench 0x620000 (·.rf.f) = some 0x90 ∧ after bench 0x630000 (·.rf.f) = some 0xA0 := by decide

/-- V-FLG-5, V-FLG-7 to V-FLG-11: the flags in the order zero, subtract, half_carry, carry. -/
theorem test_set_f :
    after bench 0x27005A (·.rf.fl) = some { zero := 0, subtract := 1, halfCarry := 0, carry := 1 } ∧
    after bench 0x270080 (·.rf.fl) = some { zero := 1, subtract := 0, halfCarry := 0, carry := 0 } ∧
    after bench 0x270040 (·.rf.fl) = some { zero := 0, subtract := 1, halfCarry := 0, carry := 0 } ∧
    after bench 0x270020 (·.rf.fl) = some { zero := 0, subtract := 0, halfCarry := 1, carry := 0 } ∧
    after bench 0x270010 (·.rf.fl) = some { zero := 0, subtract := 0, halfCarry := 0, carry := 1 } ∧
    after bench 0x270008 (·.rf.f) = some 0x00 := by decide

/-! ### Pixel decoder -/

/-- V-ENC-40 to V-ENC-43, V-ENC-57. -/
theorem test_control_bytes :
    answered bench 0x800000 = okay 0x10 ∧ answered bench 0x810000 = okay 0x00 ∧
    after bench 0x8200A5 (·.px) = some { bench.px with lcdc := 0xA5 } ∧ after bench 0x8300A5 (·.px) = some { bench.px with stat := 0xA5 } ∧
    after bench 0x82FF00 (·.px) = some { bench.px with lcdc := 0x00 } := by decide

/-- V-ILV-1 (90_conflicts.md C1), V-ILV-2, V-ILV-7, V-ILV-9, V-ILV-11. -/
theorem test_interleave :
    answered bench 0x88F0AA = okay 0xEE44 ∧ answered bench 0x88AAF0 = okay 0xDD88 ∧ answered bench 0x888001 = okay 0x8001 ∧
    answered bench 0x883C7E = okay 0x1FF4 ∧ answered bench 0x881234 = okay 0x0718 := by decide

/-- V-TAD-5, V-TAD-6, V-TAD-9, V-TAD-11, V-TAD-18, V-TAD-19, V-TAD-21. -/
theorem test_tile_address :
    answered bench 0x8900FF = okay 0x80FF ∧ answered bench 0x89FF80 = okay 0x7F80 ∧ answered bench 0x898000 = okay 0x0000 ∧
    answered bench 0x897FFF = okay 0xFFFF ∧ answered benchSigned 0x89FFFF = okay 0x8FFF ∧
    answered benchSigned 0x897000 = okay 0x0000 ∧ answered benchSigned 0x896FFF = okay 0xFFFF := by decide

/-- V-TAD-33 to V-TAD-37. -/
theorem test_tile_address_of_index :
    tileAddrIdx 1 0x7F = 0x807F ∧ tileAddrIdx 0 0x7F = 0x907F ∧ tileAddrIdx 1 0x80 = 0x8080 ∧ tileAddrIdx 0 0x80 = 0x8F80 ∧
    tileAddrIdx 1 0xFF = 0x80FF ∧ tileAddrIdx 0 0xFF = 0x8FFF := by decide

/-- V-PAL-3, V-PAL-5, V-PAL-8. -/
theorem test_palette :
    answered bench 0x8A0002 = okay (Config.palette 2) ∧ answered bench 0x8A0004 = okay (Config.palette 0) ∧
    answered bench 0x8AFFFF = okay (Config.palette 3) := ⟨rfl, rfl, rfl⟩

/-- V-RND-1. -/
theorem test_render_headless :
    answered bench 0x8F0000 = okay 0 ∧ after bench 0x8F0000 (·.out.calls) = some [] := by decide

/-- V-RND-3: what every row of cell 0 decodes to, where it is read, and R215's largest index. -/
theorem test_render_cell :
    cellAddr screen 0 = 0x8000 ∧ (rowIndices screen 0).toList = [3, 2, 3, 2, 1, 0, 1, 0] ∧
    ((cellWrites screen 1023).map Prod.fst).getLast? = some 1086 := by decide

/-! ### Failures, reset, the debug port -/

/-- V-EXC-1, its `PX.RENDER`: all port calls are made, then `halted` is set. -/
theorem test_present_failure :
    answered { screen with env.surface := .err } 0x8F0000 = some { status := .presentFail, data := 0 } ∧
    after { screen with env.surface := .err } 0x8F0000 (fun t => (t.halted, t.rf.a, t.out.calls.length)) = some (true, 0x01, 9217) := by
  decide +kernel

/-- V-EXC-2. -/
theorem test_halted :
    answered dead 0x100000 = haltedAnswer ∧ answered dead 0x000000 = haltedAnswer ∧ answered dead 0x8F0000 = haltedAnswer ∧
    answered dead 0x700000 = haltedAnswer ∧ after dead 0x200000 (fun t => (t.halted, t.rf.a)) = some (true, 0x01) := by decide

/-- R60, R283: a `Present` that never answers. -/
theorem test_present_never_answers :
    exec .pxRender { screen with env.surface := .never } = .fault .presentNeverAnswers := rfl

/-- V-RST-4: reset takes an instance out of `halted` and loads the snapshot. -/
theorem test_reset_clears_halted :
    step { dead with rf.a := 0x42, env.inputs := [.reset false true] } = .next State.reset := rfl

/-- V-RST-3 and V-EXC-3: the straps. -/
theorem test_reset_straps :
    (State.resetWith false false).halted = true ∧ (State.resetWith true false).halted = false ∧
    State.reset.halted = false ∧ State.reset.px.headless = false := by decide

/-- V-DBG-1, and R262's radices on it. -/
theorem test_debug_port :
    bench.debugPort.word = 0x002002601B0029B61FFFC0201 ∧
    bench.debugPort.texts.map String.ofList =
      ["0x01", "0x00", "0x13", "0x00", "0xD8", "0x01", "0x4D", "10110000", "0xFFFE", "0x0100", "1"] := by decide

/-- The environment's inputs (R296), and a read after them. -/
theorem test_environment_inputs :
    step { screen with env.inputs := [.memory 0x8000 0x12] } =
      .next { screen with env.mem := Memory.write memBase screen.env.mem 0x8000 0x12 } ∧
    step { screen with env.inputs := [.surface .err] } = .next { screen with env.surface := .err } := ⟨rfl, rfl⟩

/-! ### Witnesses: for each obligation with hypotheses, a state and operands that meet them -/

theorem witness_FieldReadsAnswerTheStoredByte :
    bench.halted = false ∧ (State.resetWith true false).halted = false ∧ (State.resetWith false true).halted = false := by decide

theorem witness_FieldWritesStoreTheOperandOnly : bench.halted = false ∧ (State.resetWith true false).halted = false := by decide

theorem witness_StackPointerProgramCounterAndImeAreStored :
    screen.halted = false ∧ (State.resetWith false true).halted = false := by decide

theorem witness_RegisterFileConstructionLoadsTheSnapshot :
    bench.halted = false ∧ ∃ t u : State, exec .rfNew bench = .next t ∧ exec .rfNew t = .next u := ⟨rfl, _, _, rfl, rfl⟩

theorem witness_ResetAndNewLeaveTheSnapshot :
    (∃ headless surfaceOk : Bool, dead = State.resetWith headless surfaceOk) ∧
    ∃ r s : State, r.halted = false ∧ exec .rfNew r = .next s := ⟨⟨_, _, rfl⟩, bench, _, rfl, rfl⟩

theorem witness_PairReadsComposeTwoBytes : bench.halted = false ∧ (State.resetWith false true).halted = false := by decide

theorem witness_PairWritesSplitTheOperand : bench.halted = false ∧ (State.resetWith false true).halted = false := by decide

theorem witness_PairViewsRoundTrip :
    bench.halted = false ∧ (∃ t, exec (.setBC bench.rf.bc) bench = .next t) ∧ (∃ t, exec (.setDE bench.rf.de) bench = .next t) ∧
    (∃ t, exec (.setHL bench.rf.hl) bench = .next t) ∧ ∃ t, exec (.setAF bench.rf.af) bench = .next t :=
  ⟨rfl, ⟨_, rfl⟩, ⟨_, rfl⟩, ⟨_, rfl⟩, _, rfl⟩

theorem witness_PackedFlagByteRoundTrip :
    bench.halted = false ∧ packFlags bench.rf.fl = packFlags bench.rf.fl ∧ (0x00 : Byte) &&& 0x0F = 0 ∧ (0xF0 : Byte) &&& 0x0F = 0 := by
  decide

theorem witness_FlagReadsAnswerTheStoredBits : bench.halted = false ∧ (State.resetWith true true).halted = false := by decide

theorem witness_FlagWritesChangeTheirFlagOnly : bench.halted = false ∧ (State.resetWith true true).halted = false := by decide

/-- SET.A is no writer and no reader of a flag, SET.ZERO writes one of them. -/
theorem witness_FlagsAreTouchedByTheirOwnCommandsOnly :
    (∃ t, exec (.setA 0xFF) bench = .next t) ∧ (∃ t, exec (.setZero 0) bench = .next t) ∧
    Instr.setA 0xFF ≠ .rfNew ∧ (∀ v, Instr.setA 0xFF ≠ .setF v) ∧ (∀ v, Instr.setA 0xFF ≠ .setAF v) ∧
    (∀ v, Instr.setA 0xFF ≠ .setZero v) ∧ (∀ v, Instr.setA 0xFF ≠ .setSubtract v) ∧ (∀ v, Instr.setA 0xFF ≠ .setHalfCarry v) ∧
    (∀ v, Instr.setA 0xFF ≠ .setCarry v) ∧ (∀ v, Instr.setZero 0 ≠ .setCarry v) ∧
    Instr.setA 0xFF ≠ .getF ∧ Instr.setA 0xFF ≠ .getAF ∧ Instr.setA 0xFF ≠ .getZero ∧ Instr.setA 0xFF ≠ .getSubtract ∧
    Instr.setA 0xFF ≠ .getHalfCarry ∧ Instr.setA 0xFF ≠ .getCarry :=
  ⟨⟨_, rfl⟩, ⟨_, rfl⟩, by simp⟩

/-- SET.LCDC writes no other cell, SET.BC no cell but `b` and `c`. -/
theorem witness_StoredCellsChangeOnlyByTheirWriters :
    (∃ t, exec (.setLcdc 0xFF) bench = .next t) ∧ (∃ t, exec (.setBC 0xFFFF) bench = .next t) ∧
    Instr.setBC 0xFFFF ≠ .rfNew ∧ Instr.setBC 0xFFFF ≠ .pxRender ∧
    (∀ v, Instr.setLcdc 0xFF ≠ .setA v) ∧ (∀ v, Instr.setLcdc 0xFF ≠ .setAF v) ∧ (∀ v, Instr.setLcdc 0xFF ≠ .setB v) ∧
    (∀ v, Instr.setLcdc 0xFF ≠ .setBC v) ∧ (∀ v, Instr.setLcdc 0xFF ≠ .setC v) ∧ (∀ v, Instr.setBC 0xFFFF ≠ .setD v) ∧
    (∀ v, Instr.setBC 0xFFFF ≠ .setDE v) ∧ (∀ v, Instr.setBC 0xFFFF ≠ .setE v) ∧ (∀ v, Instr.setBC 0xFFFF ≠ .setH v) ∧
    (∀ v, Instr.setBC 0xFFFF ≠ .setHL v) ∧ (∀ v, Instr.setBC 0xFFFF ≠ .setL v) ∧ (∀ v, Instr.setBC 0xFFFF ≠ .setSP v) ∧
    (∀ v, Instr.setBC 0xFFFF ≠ .setPC v) ∧ (∀ v, Instr.setBC 0xFFFF ≠ .setIme v) ∧ (∀ v, Instr.setBC 0xFFFF ≠ .setLcdc v) ∧
    (∀ v, Instr.setBC 0xFFFF ≠ .setStat v) ∧ (∀ v, Instr.setBC 0xFFFF ≠ .setF v) ∧ (∀ v, Instr.setBC 0xFFFF ≠ .setAF v) ∧
    (∀ v, Instr.setBC 0xFFFF ≠ .setZero v) ∧ (∀ v, Instr.setBC 0xFFFF ≠ .setSubtract v) ∧
    (∀ v, Instr.setBC 0xFFFF ≠ .setHalfCarry v) ∧ ∀ v, Instr.setBC 0xFFFF ≠ .setCarry v :=
  ⟨⟨_, rfl⟩, ⟨_, rfl⟩, by simp⟩

theorem witness_ReadCommandsChangeNoState :
    Instr.isReadOnly .getA = true ∧ Instr.isReadOnly .getAF = true ∧ Instr.isReadOnly (.pxIlv 0xF0 0xAA) = true := by decide

theorem witness_NoCommandWritesMemory :
    (∃ t, exec .pxRender screen = .next t) ∧ (∃ t, step { screen with env.inputs := [.command 0xFF0000] } = .next t) ∧
    ∃ t, step { screen with env.inputs := [.reset true true] } = .next t := ⟨⟨_, rfl⟩, ⟨_, rfl⟩, _, rfl⟩

theorem witness_OnlyRenderCanFail : Instr.setPC 0xFFFF ≠ .pxRender ∧ bench.halted = false := by decide

theorem witness_RegisterFileAndPixelDecoderAreIndependent :
    (∃ t, exec .rfNew screen = .next t) ∧ Instr.isPixel .rfNew = false ∧
    (∃ t, exec .pxRender screen = .next t) ∧ Instr.isPixel .pxRender = true := ⟨⟨_, rfl⟩, rfl, ⟨_, rfl⟩, rfl⟩

theorem witness_StoredCellsWithoutBehaviourGateNothing :
    (∃ t, exec .pxRender screen = .next t) ∧ Instr.pxRender ≠ .getSP ∧ Instr.pxRender ≠ .getPC ∧ Instr.pxRender ≠ .getIme ∧
    Instr.pxRender ≠ .getStat := ⟨⟨_, rfl⟩, by decide⟩

theorem witness_OnlyRenderTouchesPorts :
    (∃ t, exec .getA screen = .next t) ∧ Instr.getA ≠ .pxRender ∧
    (∃ t, exec .pxRender bench = .next t) ∧ bench.px.headless = true ∧
    (∃ t, exec .pxRender dead = .next t) ∧ dead.halted = true := ⟨⟨_, rfl⟩, by decide, ⟨_, rfl⟩, rfl, ⟨_, rfl⟩, rfl⟩

theorem witness_EveryCommandIsAnsweredOnce :
    (∃ t, exec .getA bench = .next t) ∧ (∃ t, exec .getA dead = .next t ∧ ∃ r, t.out.rsp = some r ∧ r.status ≠ .ok) :=
  ⟨⟨_, rfl⟩, _, rfl, _, rfl, by decide⟩

theorem witness_ControlBytesAreStored : bench.halted = false ∧ (State.resetWith true true).halted = false := by decide

theorem witness_InterleaveIsABijection : interleave 0xFF 0x00 = interleave 0xFF 0x00 := rfl

theorem witness_InterleaveCommandAnswersTheShuffle : screen.halted = false := rfl

theorem witness_AddressingModeIsControlBitFour :
    (0x10 : Byte) &&& 0x10 = 0x10 ∧ (0xFF : Byte) &&& 0x10 = 0x10 ∧ (0x00 : Byte) &&& 0x10 = 0 ∧ (0xEF : Byte) &&& 0x10 = 0 ∧
    screen.px.lcdc &&& 0x10 = { screen with px.lcdc := 0xFF }.px.lcdc &&& 0x10 ∧
    screen.tileIndex (BitVec.ofNat 10 1023) = { screen with px.lcdc := 0xFF }.tileIndex (BitVec.ofNat 10 1023) := by decide

theorem witness_TileAddressCommandAddsTheBase :
    bench.halted = false ∧ bench.px.lcdc = 0x10 ∧ benchSigned.halted = false ∧ benchSigned.px.lcdc = 0x00 := by decide

theorem witness_TileAddressOfAnIndexIsExtendedNotScaled :
    (0x00 : Byte).toNat ≤ 0x7F ∧ (0x7F : Byte).toNat ≤ 0x7F ∧ 0x80 ≤ (0x80 : Byte).toNat ∧ 0x80 ≤ (0xFF : Byte).toNat := by decide

theorem witness_PaletteCommandLooksTheIndexUp : bench.halted = false := rfl

theorem witness_HeadlessRenderIsANoOp : bench.halted = false ∧ bench.px.headless = true := by decide

theorem witness_RenderPresentsOnceAndReportsTheAnswer :
    screen.halted = false ∧ screen.px.headless = false ∧ screen.env.surface = .ok ∧
    { screen with env.surface := .err }.env.surface = .err ∧ PortCall.tileIndex (BitVec.ofNat 10 0) ∈ renderCalls screen := by
  refine ⟨rfl, rfl, rfl, rfl, List.mem_flatMap.2 ⟨0, by decide, ?_⟩⟩
  exact List.mem_cons_self

theorem witness_RenderDoesNotEndWithoutAnAnswer :
    exec .pxRender { screen with env.surface := .never } = .fault .presentNeverAnswers ∧ screen.halted = false ∧
    screen.px.headless = false ∧
    ¬(Instr.getA = .pxRender ∧ screen.halted = false ∧ screen.px.headless = false ∧ screen.env.surface = .never) ∧
    ¬(Instr.pxRender = .pxRender ∧ screen.halted = false ∧ screen.px.headless = false ∧ screen.env.surface = .never) :=
  ⟨rfl, rfl, rfl, by decide⟩

/-- Boundary cells of each clause. -/
theorem witness_RenderFrameHasTheClosedForm :
    (0 ≤ 1023 ∧ 0 < 65536) ∧ (1023 ≤ 1023 ∧ 1023 < 65536) ∧ (1024 ≤ 1024 ∧ 1024 ≤ 1086) ∧ (1024 ≤ 1086 ∧ 1086 ≤ 1086) ∧
    (1087 ≤ 1087 ∧ 1087 < 65536) ∧ 1087 ≤ 65535 ∧ 65535 < 65536 := by decide

theorem witness_RenderCountsOfPortCalls :
    screen.halted = false ∧ screen.px.headless = false ∧ ∃ t, exec .pxRender screen = .next t := ⟨rfl, rfl, _, rfl⟩

/-- A read of cell 0, in unsigned and in signed mode. -/
theorem witness_RenderReadsOnlyTileData :
    (∃ t, exec .pxRender screen = .next t ∧ PortCall.memRead (cellAddr screen 0) 2 ∈ t.out.calls ∧
      screen.px.lcdc.getLsbD 4 = true) ∧
    ∃ t, exec .pxRender { screen with px.lcdc := 0x00 } = .next t ∧
      PortCall.memRead (cellAddr { screen with px.lcdc := 0x00 } 0) 2 ∈ t.out.calls ∧
      { screen with px.lcdc := 0x00 }.px.lcdc.getLsbD 4 = false := by
  have cell : ∀ s : State, PortCall.memRead (cellAddr s 0) 2 ∈ renderCalls s := fun s =>
    List.mem_flatMap.2 ⟨0, by decide, List.mem_cons_of_mem _ (List.mem_map.2 ⟨0, by decide, rfl⟩)⟩
  exact ⟨⟨_, rfl, List.mem_append_left _ (cell _), by decide⟩, _, rfl, List.mem_append_left _ (cell _), by decide⟩

theorem witness_RenderFrameDependsOnModeAndPortsOnly :
    screen.px.lcdc.getLsbD 4 = { screen with rf.a := 0xFF, px.lcdc := 0xFF, px.stat := 0xFF }.px.lcdc.getLsbD 4 ∧
    (∀ addr : Half, screen.memByte addr = { screen with rf.a := 0xFF, px.lcdc := 0xFF, px.stat := 0xFF }.memByte addr) ∧
    ∀ o : CellOffset, screen.tileIndex o = { screen with rf.a := 0xFF, px.lcdc := 0xFF, px.stat := 0xFF }.tileIndex o :=
  ⟨by decide, fun _ => rfl, fun _ => rfl⟩

theorem witness_HaltedInstanceAnswersHaltedOnly :
    dead.halted = true ∧ { dead with env.inputs := [.command 0xFFFFFF] }.halted = true ∧
    { dead with env.inputs := [.command 0xFFFFFF] }.env.inputs = [Input.command 0xFFFFFF] := by decide

/-- A run of one step that a halted instance makes. -/
theorem witness_HaltedIsLeftByResetOnly :
    (∃ t, Reaches { dead with env.inputs := [.command 0x200000] } t ∧ t.env.inputs = []) ∧
    { dead with env.inputs := [.command 0x200000] }.halted = true ∧
    State.noResetPending { dead with env.inputs := [.command 0x200000] } :=
  ⟨⟨_, Reaches.step (Reaches.refl _) rfl, rfl⟩, rfl, by simp [State.noResetPending]⟩

theorem witness_HeadlessIsConstantUntilReset :
    (∃ t, Reaches { bench with env.inputs := [.command 0x820010] } t ∧ t.env.inputs = []) ∧
    State.noResetPending { bench with env.inputs := [.command 0x820010] } :=
  ⟨⟨_, Reaches.step (Reaches.refl _) rfl, rfl⟩, by simp [State.noResetPending]⟩

theorem witness_ResetAssignsEveryCell :
    { dead with env.inputs := [.reset false true] }.env.inputs = Input.reset false true :: [] := rfl

/-- The first and last value of some of R89's ranges. -/
theorem witness_ReservedOpcodesAreAnsweredIllegal :
    reservedOpcode 0x01 = true ∧ reservedOpcode 0x0F = true ∧ reservedOpcode 0x84 = true ∧ reservedOpcode 0x8E = true ∧
    reservedOpcode 0x90 = true ∧ reservedOpcode 0xFF = true ∧ bench.halted = false ∧
    { bench with env.inputs := [.command ((0xFF : Byte) ++ (0xFFFF : Half))] }.env.inputs =
      [Input.command ((0xFF : Byte) ++ (0xFFFF : Half))] := by decide

theorem witness_EveryStepAnswersUnlessPresentHangs :
    step { screen with env.surface := .never, env.inputs := [.command 0x8F0000] } = .fault .presentNeverAnswers := rfl

theorem witness_StepRunsTheDecodedCommand :
    { bench with env.inputs := [.command 0x2000FF] }.env.inputs = [Input.command 0x2000FF] ∧
    decode 0x2000FF = .ok (.setA 0xFF) := ⟨rfl, rfl⟩

theorem witness_EnvironmentInputsChangeTheEnvironmentOnly :
    bench.env.inputs = [] ∧ { bench with env.inputs := [.surface .err] }.env.inputs = [Input.surface .err] ∧
    { bench with env.inputs := [.memory 0xFFFF 0x12] }.storesCanonical = true ∧
    { bench with env.inputs := [.memory 0xFFFF 0x12] }.env.inputs = [Input.memory 0xFFFF 0x12] ∧
    { bench with env.inputs := [.tile 0x3FF 0x12] }.storesCanonical = true ∧
    { bench with env.inputs := [.tile 0x3FF 0x12] }.env.inputs = [Input.tile 0x3FF 0x12] := ⟨rfl, rfl, rfl, rfl, rfl, rfl⟩

theorem witness_StepKeepsStoresCanonical :
    { bench with env.inputs := [.memory 0xFFFF 0x12] }.storesCanonical = true ∧
    ∃ t, step { bench with env.inputs := [.memory 0xFFFF 0x12] } = .next t := ⟨rfl, _, rfl⟩

theorem witness_CanonicalStoresAreEqualData :
    bench.storesCanonical = true ∧ dead.storesCanonical = true ∧ (∀ addr : Half, bench.memByte addr = dead.memByte addr) ∧
    ∀ o : CellOffset, bench.tileIndex o = dead.tileIndex o := ⟨rfl, rfl, fun _ => rfl, fun _ => rfl⟩

theorem witness_EncodingADecodedAssemblerWordGivesItBack : Command.wellFormed 0x2000FF = true := by decide

theorem witness_DecodingIgnoresExactlyTheUnusedBits :
    opcodeForm 0x20 = some .v8 ∧ opcodeForm 0x8F = some .none ∧ opcodeForm 0x64 = some .v1 := by decide

end Sys2Proof.Tests
end

section
/-! The flags as seen by every command (10_state.md R24, R25): a command keeps a flag unless it is one of the flag's writers, and
does the same whatever the flag holds unless it is one of the flag's readers. -/

namespace Sys2Proof.Machine

/-! ### A flag by its name -/

/-- The four flags of R24. -/
inductive FlagName where
  | zero | subtract | halfCarry | carry

/-- The value of a flag. -/
def FlagName.get : FlagName → Flags → Bit
  | .zero => Flags.zero
  | .subtract => Flags.subtract
  | .halfCarry => Flags.halfCarry
  | .carry => Flags.carry

/-- The flag's own `GET.<flag>` (R154 to R157). -/
def FlagName.getter : FlagName → Instr
  | .zero => .getZero
  | .subtract => .getSubtract
  | .halfCarry => .getHalfCarry
  | .carry => .getCarry

/-- The flag's own `SET.<flag> v` (R158 to R161). -/
def FlagName.setter : FlagName → Bit → Instr
  | .zero => .setZero
  | .subtract => .setSubtract
  | .halfCarry => .setHalfCarry
  | .carry => .setCarry

/-- The flags with another value of one of them. -/
def FlagName.set (n : FlagName) (v : Bit) (fl : Flags) : Flags :=
  match n with
  | .zero => { fl with zero := v }
  | .subtract => { fl with subtract := v }
  | .halfCarry => { fl with halfCarry := v }
  | .carry => { fl with carry := v }

/-- The register file with another value of one flag. -/
def RegFile.withFlag (n : FlagName) (v : Bit) (rf : RegFile) : RegFile :=
  { rf with fl := n.set v rf.fl }

/-- The state with another value of one flag. -/
def State.withFlag (n : FlagName) (v : Bit) (s : State) : State :=
  { s with rf := s.rf.withFlag n v }

@[simp] theorem withFlag_rf (n : FlagName) (v : Bit) (s : State) : (s.withFlag n v).rf = s.rf.withFlag n v := rfl
@[simp] theorem withFlag_px (n : FlagName) (v : Bit) (s : State) : (s.withFlag n v).px = s.px := rfl
@[simp] theorem withFlag_halted (n : FlagName) (v : Bit) (s : State) : (s.withFlag n v).halted = s.halted := rfl
@[simp] theorem withFlag_env (n : FlagName) (v : Bit) (s : State) : (s.withFlag n v).env = s.env := rfl

@[simp] theorem respond_withFlag (n : FlagName) (v : Bit) (s : State) (st : Status) (d : Word) (cs : List PortCall) :
    (s.withFlag n v).respond st d cs = (s.respond st d cs).withFlag n v := rfl

@[simp] theorem raisePresentFailure_withFlag (n : FlagName) (v : Bit) (s : State) (cs : List PortCall) :
    raisePresentFailure (s.withFlag n v) cs = (raisePresentFailure s cs).withFlag n v := rfl

/-- Flags are independent bits (R24). -/
theorem get_withFlag_of_ne {m n : FlagName} (hmn : m ≠ n) (v : Bit) (rf : RegFile) :
    n.get (rf.withFlag m v).fl = n.get rf.fl := by
  cases m <;> cases n <;> simp [FlagName.get, FlagName.set, RegFile.withFlag] at hmn ⊢

/-- A flag's own `GET`. -/
theorem exec_getter (n : FlagName) (s : State) : exec n.getter s = readCommand s (zext32 (n.get s.rf.fl)) := by
  cases n <;> rfl

/-- A flag's own `SET`. -/
theorem exec_setter (n : FlagName) (v : Bit) (s : State) : exec (n.setter v) s = writeRegFile s (s.rf.withFlag n v) := by
  cases n <;> rfl

/-! ### What the shared operations do to the register file -/

theorem readCommand_rf {s t : State} {d : Word} (h : readCommand s d = .next t) : t.rf = s.rf := by
  rw [readCommand_eq] at h
  cases h
  split <;> rfl

theorem writeRegFile_rf {s t : State} {rf : RegFile} (h : writeRegFile s rf = .next t) : t.rf = s.rf ∨ t.rf = rf := by
  rw [writeRegFile_eq] at h
  cases h
  split
  · exact .inl rfl
  · exact .inr rfl

theorem writePixel_rf {s t : State} {px : PixelDecoder} (h : writePixel s px = .next t) : t.rf = s.rf := by
  rw [writePixel_eq] at h
  cases h
  split <;> rfl

theorem execPxRender_rf {s t : State} (h : execPxRender s = .next t) : t.rf = s.rf := by
  rcases execPxRender_next h with ⟨-, rfl⟩ | ⟨-, -, rfl⟩ | ⟨-, -, -, rfl⟩ | ⟨-, -, -, rfl⟩ <;> simp

/-! ### R25, "written only by" -/

/-- A register-file write keeps a flag that the written register file takes over from the old one. -/
theorem writeRegFile_keeps_flag {s t : State} {rf : RegFile} (n : FlagName) (h : writeRegFile s rf = .next t)
    (hrf : n.get rf.fl = n.get s.rf.fl) : n.get t.rf.fl = n.get s.rf.fl := by
  rcases writeRegFile_rf h with ht | ht <;> rw [ht]
  exact hrf

/-- The `SET` of another flag keeps a flag. -/
theorem exec_setter_keeps_flag (m : FlagName) {n : FlagName} {s t : State} {v : Bit} (h : exec (m.setter v) s = .next t)
    (hOwn : m.setter v ≠ n.setter v) : n.get t.rf.fl = n.get s.rf.fl := by
  rw [exec_setter] at h
  have hmn : m ≠ n := fun e => hOwn (by rw [e])
  exact writeRegFile_keeps_flag n h (get_withFlag_of_ne hmn v s.rf)

/-- A command that is none of a flag's writers keeps the flag. -/
theorem exec_keeps_flag (n : FlagName) {i : Instr} {s t : State} (h : exec i s = .next t) (hNew : i ≠ .rfNew)
    (hF : ∀ v, i ≠ .setF v) (hAF : ∀ v, i ≠ .setAF v) (hOwn : ∀ v, i ≠ n.setter v) : n.get t.rf.fl = n.get s.rf.fl := by
  cases i
  case rfNew => exact absurd rfl hNew
  case setF v => exact absurd rfl (hF v)
  case setAF v => exact absurd rfl (hAF v)
  case setZero v => exact exec_setter_keeps_flag .zero h (hOwn v)
  case setSubtract v => exact exec_setter_keeps_flag .subtract h (hOwn v)
  case setHalfCarry v => exact exec_setter_keeps_flag .halfCarry h (hOwn v)
  case setCarry v => exact exec_setter_keeps_flag .carry h (hOwn v)
  case setA | setB | setC | setD | setE | setH | setL | setBC | setDE | setHL | setSP | setPC | setIme =>
    exact writeRegFile_keeps_flag n h rfl
  case setLcdc | setStat => rw [writePixel_rf h]
  case pxRender => rw [execPxRender_rf h]
  all_goals rw [readCommand_rf h]

/-! ### R25, "read only by": commands run from the state with another value of a flag -/

/-- A read command whose answer does not depend on the flag. -/
theorem readCommand_withFlag {s t : State} {d : Word} (n : FlagName) (v : Bit) (h : readCommand s d = .next t) :
    readCommand (s.withFlag n v) d = .next (t.withFlag n v) := by
  rw [readCommand_eq] at h ⊢
  cases h
  cases hs : s.halted <;> simp [hs]

/-- The `GET` of another flag. -/
theorem exec_getter_withFlag (m : FlagName) {n : FlagName} {s t : State} (v : Bit) (h : exec m.getter s = .next t)
    (hOwn : m.getter ≠ n.getter) : exec m.getter (s.withFlag n v) = .next (t.withFlag n v) := by
  have hnm : n ≠ m := fun e => hOwn (by rw [e])
  rw [exec_getter] at h ⊢
  rw [withFlag_rf, get_withFlag_of_ne hnm]
  exact readCommand_withFlag n v h

/-- A register-file write whose written register file depends on the flag in the flag only. -/
theorem writeRegFile_withFlag {s t : State} {rf rf' : RegFile} (n : FlagName) (v : Bit) (h : writeRegFile s rf = .next t)
    (hrf : rf' = rf.withFlag n (n.get rf'.fl)) : ∃ v', writeRegFile (s.withFlag n v) rf' = .next (t.withFlag n v') := by
  rw [writeRegFile_eq] at h ⊢
  cases h
  cases hs : s.halted
  · refine ⟨n.get rf'.fl, ?_⟩
    simp [← hrf, State.withFlag, State.respond, hs]
  · exact ⟨v, by simp [hs]⟩

theorem writePixel_withFlag {s t : State} {px : PixelDecoder} (n : FlagName) (v : Bit) (h : writePixel s px = .next t) :
    writePixel (s.withFlag n v) px = .next (t.withFlag n v) := by
  rw [writePixel_eq] at h ⊢
  cases h
  cases hs : s.halted <;> simp [State.withFlag, State.respond, hs]

@[simp] theorem renderCalls_withFlag (n : FlagName) (v : Bit) (s : State) : renderCalls (s.withFlag n v) = renderCalls s := rfl
@[simp] theorem renderFrame_withFlag (n : FlagName) (v : Bit) (s : State) : renderFrame (s.withFlag n v) = renderFrame s := rfl

/-- A render, in each of its four ends. -/
theorem execPxRender_withFlag {s t : State} (n : FlagName) (v : Bit) (h : execPxRender s = .next t) :
    execPxRender (s.withFlag n v) = .next (t.withFlag n v) := by
  rcases execPxRender_next h with ⟨hr, rfl⟩ | ⟨hr, hh, rfl⟩ | ⟨hr, hh, hs, rfl⟩ | ⟨hr, hh, hs, rfl⟩
  · simp [execPxRender, whenRunning, hr]
  · simp [execPxRender, whenRunning, hr, hh, done]
  · simp [execPxRender, whenRunning, hr, hh, presentFrame, hs]
  · simp [execPxRender, whenRunning, hr, hh, presentFrame, hs]

/-- A command that is none of a flag's readers does the same whatever the flag holds, the flag apart. -/
theorem exec_withFlag (n : FlagName) {i : Instr} {s t : State} (v : Bit) (h : exec i s = .next t) (hF : i ≠ .getF)
    (hAF : i ≠ .getAF) (hOwn : i ≠ n.getter) : ∃ v', exec i (s.withFlag n v) = .next (t.withFlag n v') := by
  cases i
  case getF => exact absurd rfl hF
  case getAF => exact absurd rfl hAF
  case getZero => exact ⟨v, exec_getter_withFlag .zero v h hOwn⟩
  case getSubtract => exact ⟨v, exec_getter_withFlag .subtract v h hOwn⟩
  case getHalfCarry => exact ⟨v, exec_getter_withFlag .halfCarry v h hOwn⟩
  case getCarry => exact ⟨v, exec_getter_withFlag .carry v h hOwn⟩
  case rfNew | setA | setB | setC | setD | setE | setH | setL | setF | setBC | setDE | setHL | setAF | setSP | setPC | setIme |
      setZero | setSubtract | setHalfCarry | setCarry =>
    exact writeRegFile_withFlag n v h (by cases n <;> rfl)
  case setLcdc | setStat => exact ⟨v, writePixel_withFlag n v h⟩
  case pxRender => exact ⟨v, execPxRender_withFlag n v h⟩
  all_goals exact ⟨v, readCommand_withFlag n v h⟩

/-- Settles O13: `exec_keeps_flag` and `exec_withFlag` for each of the four flags; the debug port shows the packed byte of R151. -/
theorem flagsAreTouchedByTheirOwnCommandsOnly : Obligations.FlagsAreTouchedByTheirOwnCommandsOnly := by
  refine ⟨fun i s t h hNew hF hAF => ⟨?_, ?_, ?_, ?_⟩, fun i s t v h hF hAF => ⟨?_, ?_, ?_, ?_⟩, fun _ => rfl⟩
  · exact exec_keeps_flag .zero h hNew hF hAF
  · exact exec_keeps_flag .subtract h hNew hF hAF
  · exact exec_keeps_flag .halfCarry h hNew hF hAF
  · exact exec_keeps_flag .carry h hNew hF hAF
  · exact exec_withFlag .zero v h hF hAF
  · exact exec_withFlag .subtract v h hF hAF
  · exact exec_withFlag .halfCarry v h hF hAF
  · exact exec_withFlag .carry v h hF hAF

end Sys2Proof.Machine
end

section
/-! The `GET` and `SET` commands of the register file by the name they carry in R85's opcode groups 1 to 6: a field name, a wide
name or a bit name of R86. One rule per group says how the command decodes and what it does. -/

namespace Sys2Proof

open Machine

/-! ### A cell or view by its name -/

/-- What `GET.<field>` reads. -/
def FieldName.get : FieldName → RegFile → Byte
  | .a => RegFile.a
  | .b => RegFile.b
  | .c => RegFile.c
  | .d => RegFile.d
  | .e => RegFile.e
  | .h => RegFile.h
  | .l => RegFile.l
  | .f => RegFile.f

/-- The register file after `SET.<field> v`. -/
def FieldName.set (n : FieldName) (v : Byte) (rf : RegFile) : RegFile :=
  match n with
  | .a => { rf with a := v }
  | .b => { rf with b := v }
  | .c => { rf with c := v }
  | .d => { rf with d := v }
  | .e => { rf with e := v }
  | .h => { rf with h := v }
  | .l => { rf with l := v }
  | .f => { rf with fl := unpackFlags v }

/-- `GET.<field>` (R102 to R108, R162). -/
def FieldName.getter : FieldName → Instr
  | .a => .getA
  | .b => .getB
  | .c => .getC
  | .d => .getD
  | .e => .getE
  | .h => .getH
  | .l => .getL
  | .f => .getF

/-- `SET.<field> v` (R109 to R115, R163). -/
def FieldName.setter : FieldName → Byte → Instr
  | .a => .setA
  | .b => .setB
  | .c => .setC
  | .d => .setD
  | .e => .setE
  | .h => .setH
  | .l => .setL
  | .f => .setF

/-- What `GET.<wide>` reads. -/
def WideName.get : WideName → RegFile → Half
  | .bc => RegFile.bc
  | .de => RegFile.de
  | .hl => RegFile.hl
  | .af => RegFile.af
  | .sp => RegFile.sp
  | .pc => RegFile.pc

/-- The register file after `SET.<wide> v`. -/
def WideName.set (n : WideName) (v : Half) (rf : RegFile) : RegFile :=
  match n with
  | .bc => { rf with b := splitHi v, c := splitLo v }
  | .de => { rf with d := splitHi v, e := splitLo v }
  | .hl => { rf with h := splitHi v, l := splitLo v }
  | .af => { rf with a := splitHi v, fl := unpackFlags (splitLo v) }
  | .sp => { rf with sp := v }
  | .pc => { rf with pc := v }

/-- `GET.<wide>` (R116, R118, R131 to R134). -/
def WideName.getter : WideName → Instr
  | .bc => .getBC
  | .de => .getDE
  | .hl => .getHL
  | .af => .getAF
  | .sp => .getSP
  | .pc => .getPC

/-- `SET.<wide> v` (R117, R119, R135 to R138). -/
def WideName.setter : WideName → Half → Instr
  | .bc => .setBC
  | .de => .setDE
  | .hl => .setHL
  | .af => .setAF
  | .sp => .setSP
  | .pc => .setPC

/-- What `GET.<bit>` reads. -/
def BitName.get (n : BitName) (rf : RegFile) : Bit :=
  match n with
  | .zero => rf.fl.zero
  | .subtract => rf.fl.subtract
  | .halfCarry => rf.fl.halfCarry
  | .carry => rf.fl.carry
  | .ime => rf.ime

/-- The register file after `SET.<bit> v`. -/
def BitName.set (n : BitName) (v : Bit) (rf : RegFile) : RegFile :=
  match n with
  | .zero => { rf with fl.zero := v }
  | .subtract => { rf with fl.subtract := v }
  | .halfCarry => { rf with fl.halfCarry := v }
  | .carry => { rf with fl.carry := v }
  | .ime => { rf with ime := v }

/-- `GET.<bit>` (R120, R154 to R157). -/
def BitName.getter : BitName → Instr
  | .zero => .getZero
  | .subtract => .getSubtract
  | .halfCarry => .getHalfCarry
  | .carry => .getCarry
  | .ime => .getIme

/-- `SET.<bit> v` (R121, R158 to R161). -/
def BitName.setter : BitName → Bit → Instr
  | .zero => .setZero
  | .subtract => .setSubtract
  | .halfCarry => .setHalfCarry
  | .carry => .setCarry
  | .ime => .setIme

/-! ### Groups 1 to 6 of the opcode map (R85, R87): `arg` holds the operand and nothing else -/

theorem FieldName.decode_getter (n : FieldName) (arg : Half) : decode (opReadField n ++ arg) = .ok n.getter :=
  decode_append_of_some (by cases n <;> rfl)

theorem FieldName.decode_setter (n : FieldName) (arg : Half) : decode (opWriteField n ++ arg) = .ok (n.setter (formV8 arg)) :=
  decode_append_of_some (by cases n <;> rfl)

theorem WideName.decode_getter (n : WideName) (arg : Half) : decode (opReadWide n ++ arg) = .ok n.getter :=
  decode_append_of_some (by cases n <;> rfl)

theorem WideName.decode_setter (n : WideName) (arg : Half) : decode (opWriteWide n ++ arg) = .ok (n.setter (formV16 arg)) :=
  decode_append_of_some (by cases n <;> rfl)

theorem BitName.decode_getter (n : BitName) (arg : Half) : decode (opReadBit n ++ arg) = .ok n.getter :=
  decode_append_of_some (by cases n <;> rfl)

theorem BitName.decode_setter (n : BitName) (arg : Half) : decode (opWriteBit n ++ arg) = .ok (n.setter (formV1 arg)) :=
  decode_append_of_some (by cases n <;> rfl)

/-! ### Every `GET` is a read command, every `SET` a register-file write -/

theorem FieldName.exec_getter (n : FieldName) (s : State) : exec n.getter s = readCommand s (zext32 (n.get s.rf)) := by
  cases n <;> rfl

theorem FieldName.exec_setter (n : FieldName) (v : Byte) (s : State) : exec (n.setter v) s = writeRegFile s (n.set v s.rf) := by
  cases n <;> rfl

theorem WideName.exec_getter (n : WideName) (s : State) : exec n.getter s = readCommand s (zext32 (n.get s.rf)) := by
  cases n <;> rfl

theorem WideName.exec_setter (n : WideName) (v : Half) (s : State) : exec (n.setter v) s = writeRegFile s (n.set v s.rf) := by
  cases n <;> rfl

theorem BitName.exec_getter (n : BitName) (s : State) : exec n.getter s = readCommand s (zext32 (n.get s.rf)) := by
  cases n <;> rfl

theorem BitName.exec_setter (n : BitName) (v : Bit) (s : State) : exec (n.setter v) s = writeRegFile s (n.set v s.rf) := by
  cases n <;> rfl

end Sys2Proof

namespace Sys2Proof.Machine

/-! ### What the shared operations do in a running instance -/

theorem readCommand_running {s : State} (d : Word) (hs : s.halted = false) : readCommand s d = .next (s.respond .ok d []) :=
  whenRunning_running _ hs

theorem writeRegFile_running {s : State} (rf : RegFile) (hs : s.halted = false) :
    writeRegFile s rf = .next ({ s with rf := rf }.respond .ok 0 []) :=
  whenRunning_running _ hs

theorem answers_of_readCommand {i : Instr} {s : State} {d : Word} (hi : exec i s = readCommand s d) (hs : s.halted = false) :
    Answers i s d :=
  ⟨_, hi.trans (readCommand_running d hs), rfl⟩

/-- A read after a register-file write sees the written register file. -/
theorem thenAnswers_of_writeRegFile {i j : Instr} {s : State} {rf : RegFile} {d : RegFile → Word} {w : Word}
    (hi : exec i s = writeRegFile s rf) (hj : ∀ t, exec j t = readCommand t (d t.rf)) (hs : s.halted = false) (hw : d rf = w) :
    ThenAnswers i j s w :=
  hw ▸ ⟨_, hi.trans (writeRegFile_running rf hs), answers_of_readCommand (hj _) hs⟩

theorem readsOnly_of_readCommand {op : Byte} {i : Instr} {d : State → Word} (hd : ∀ arg : Half, decode (op ++ arg) = .ok i)
    (hi : ∀ s, exec i s = readCommand s (d s)) : ReadsOnly op i d :=
  ⟨hd, fun s hs => (hi s).trans (readCommand_running (d s) hs)⟩

theorem writesBy_of_writeRegFile {α : Type} {op : Byte} {mk : α → Instr} {operand : Half → α} {set : α → RegFile → RegFile}
    (hd : ∀ arg : Half, decode (op ++ arg) = .ok (mk (operand arg))) (hi : ∀ v s, exec (mk v) s = writeRegFile s (set v s.rf)) :
    WritesBy op mk operand (fun v s => { s with rf := set v s.rf }) :=
  ⟨hd, fun v s hs => (hi v s).trans (writeRegFile_running (set v s.rf) hs)⟩

/-! ### The rule of each group -/

theorem readsOnly_field (n : FieldName) : ReadsOnly (opReadField n) n.getter (fun s => zext32 (n.get s.rf)) :=
  readsOnly_of_readCommand n.decode_getter n.exec_getter

theorem writesBy_field (n : FieldName) :
    WritesBy (opWriteField n) n.setter formV8 (fun v s => { s with rf := n.set v s.rf }) :=
  writesBy_of_writeRegFile n.decode_setter n.exec_setter

theorem readsOnly_wide (n : WideName) : ReadsOnly (opReadWide n) n.getter (fun s => zext32 (n.get s.rf)) :=
  readsOnly_of_readCommand n.decode_getter n.exec_getter

theorem writesBy_wide (n : WideName) :
    WritesBy (opWriteWide n) n.setter formV16 (fun v s => { s with rf := n.set v s.rf }) :=
  writesBy_of_writeRegFile n.decode_setter n.exec_setter

theorem readsOnly_bit (n : BitName) : ReadsOnly (opReadBit n) n.getter (fun s => zext32 (n.get s.rf)) :=
  readsOnly_of_readCommand n.decode_getter n.exec_getter

theorem writesBy_bit (n : BitName) :
    WritesBy (opWriteBit n) n.setter formV1 (fun v s => { s with rf := n.set v s.rf }) :=
  writesBy_of_writeRegFile n.decode_setter n.exec_setter

/-! ### Answers in a running instance -/

section
variable {s : State} (hs : s.halted = false)
include hs

theorem answers_field (n : FieldName) : Answers n.getter s (zext32 (n.get s.rf)) :=
  answers_of_readCommand (n.exec_getter s) hs

theorem answers_wide (n : WideName) : Answers n.getter s (zext32 (n.get s.rf)) :=
  answers_of_readCommand (n.exec_getter s) hs

theorem answers_bit (n : BitName) : Answers n.getter s (zext32 (n.get s.rf)) :=
  answers_of_readCommand (n.exec_getter s) hs

/-- A wide read after the write of a field. -/
theorem field_thenAnswers_wide (n : FieldName) (v : Byte) (m : WideName) {w : Word} (hw : zext32 (m.get (n.set v s.rf)) = w) :
    ThenAnswers (n.setter v) m.getter s w :=
  thenAnswers_of_writeRegFile (d := fun rf => zext32 (m.get rf)) (n.exec_setter v s) m.exec_getter hs hw

/-- A wide read after a wide write. -/
theorem wide_thenAnswers_wide (n : WideName) (v : Half) (m : WideName) {w : Word} (hw : zext32 (m.get (n.set v s.rf)) = w) :
    ThenAnswers (n.setter v) m.getter s w :=
  thenAnswers_of_writeRegFile (d := fun rf => zext32 (m.get rf)) (n.exec_setter v s) m.exec_getter hs hw

/-- A bit read after the write of a bit. -/
theorem bit_thenAnswers_bit (n : BitName) (v : Bit) (m : BitName) {w : Word} (hw : zext32 (m.get (n.set v s.rf)) = w) :
    ThenAnswers (n.setter v) m.getter s w :=
  thenAnswers_of_writeRegFile (d := fun rf => zext32 (m.get rf)) (n.exec_setter v s) m.exec_getter hs hw

end

/-- Reset loads one register file, whatever the straps (R33, R270). -/
theorem resetWith_rf (headless surfaceOk : Bool) : (State.resetWith headless surfaceOk).rf = State.reset.rf := rfl

/-! ### The halves of a pair view (R130) -/

@[simp] theorem splitHi_compose (hi lo : Byte) : splitHi (compose hi lo) = hi := formHi_append hi lo

@[simp] theorem splitLo_compose (hi lo : Byte) : splitLo (compose hi lo) = lo := formLo_append hi lo

/-! ### Direct field access (40_regfile_fields.md) -/

/-- Settles O1: the rule of opcode group 1 at each of the seven fields; a pair view is composed of its two halves. -/
theorem fieldReadsAnswerTheStoredByte : Obligations.FieldReadsAnswerTheStoredByte := by
  refine ⟨readsOnly_field .a, readsOnly_field .b, readsOnly_field .c, readsOnly_field .d, readsOnly_field .e,
    readsOnly_field .h, readsOnly_field .l, fun rf => ?_, fun headless surfaceOk hs => ?_⟩
  · exact ⟨splitHi_compose rf.b rf.c, splitLo_compose rf.b rf.c, splitHi_compose rf.d rf.e, splitLo_compose rf.d rf.e,
      splitHi_compose rf.h rf.l, splitLo_compose rf.h rf.l⟩
  · exact ⟨answers_field hs .a, answers_field hs .b, answers_field hs .c, answers_field hs .d, answers_field hs .e,
      answers_field hs .h, answers_field hs .l⟩

/-- Settles O2: the rule of opcode group 2 at each of the seven fields; a pair read afterwards composes the written byte with the
half that stayed. -/
theorem fieldWritesStoreTheOperandOnly : Obligations.FieldWritesStoreTheOperandOnly := by
  refine ⟨writesBy_field .a, writesBy_field .b, writesBy_field .c, writesBy_field .d, writesBy_field .e, writesBy_field .h,
    writesBy_field .l, fun s v hs => ?_, fun headless surfaceOk hs => ?_⟩
  · exact ⟨field_thenAnswers_wide hs .a v .af rfl, field_thenAnswers_wide hs .b v .bc rfl⟩
  · refine ⟨field_thenAnswers_wide hs .a 0xFF .af ?_, field_thenAnswers_wide hs .b 0xAB .bc ?_,
      field_thenAnswers_wide hs .c 0x00 .bc ?_, field_thenAnswers_wide hs .d 0x12 .de ?_,
      field_thenAnswers_wide hs .e 0x34 .de ?_, field_thenAnswers_wide hs .h 0xC0 .hl ?_,
      field_thenAnswers_wide hs .l 0xFF .hl ?_⟩
    all_goals rw [resetWith_rf]; decide

/-- Settles O3: the rules of opcode groups 3 to 6 at `sp`, `pc` and `ime`; of operand 2 the form `v1` keeps bit 0. -/
theorem stackPointerProgramCounterAndImeAreStored : Obligations.StackPointerProgramCounterAndImeAreStored := by
  refine ⟨readsOnly_wide .sp, writesBy_wide .sp, readsOnly_wide .pc, writesBy_wide .pc, readsOnly_bit .ime, writesBy_bit .ime,
    fun s v b hs => ?_, BitName.decode_setter .ime 0x0002, fun headless surfaceOk hs => ?_⟩
  · exact ⟨wide_thenAnswers_wide hs .sp v .sp rfl, wide_thenAnswers_wide hs .pc v .pc rfl,
      bit_thenAnswers_bit hs .ime b .ime rfl⟩
  · exact ⟨answers_wide hs .sp, answers_wide hs .pc, answers_bit hs .ime⟩

end Sys2Proof.Machine
end

section
/-! The pair views of R130 and the packed flag byte of R151 and R152, read back after a write, and the obligations of
41_pair_views.md about the commands that read and write a pair. -/

namespace Sys2Proof.Machine

/-! ### Reading back what was split -/

@[simp] theorem compose_split (v : Half) : compose (splitHi v) (splitLo v) = v := by
  unfold compose splitHi splitLo
  rw [BitVec.extractLsb'_append_extractLsb'_eq_extractLsb' (by rfl), BitVec.extractLsb'_eq_self]

/-- A mask given in two parts applies to each part of the word. -/
theorem and_append_parts {m n : Nat} (x : BitVec (m + n)) (p : BitVec m) (q : BitVec n) :
    x &&& (p ++ q) = (x.extractLsb' n m &&& p) ++ (x.extractLsb' 0 n &&& q) := by
  rw [← BitVec.and_append, BitVec.extractLsb'_append_extractLsb'_eq_extractLsb' (Nat.zero_add n).symm,
    BitVec.extractLsb'_eq_self]

/-- The four flag bits of R152, side by side, are the high nibble. -/
theorem flag_bits_append (v : Byte) :
    v.extractLsb' 7 1 ++ v.extractLsb' 6 1 ++ v.extractLsb' 5 1 ++ v.extractLsb' 4 1 = v.extractLsb' 4 4 := by
  have h76 : v.extractLsb' 7 1 ++ v.extractLsb' 6 1 = v.extractLsb' 6 2 :=
    BitVec.extractLsb'_append_extractLsb'_eq_extractLsb' rfl
  have h765 : v.extractLsb' 6 2 ++ v.extractLsb' 5 1 = v.extractLsb' 5 3 :=
    BitVec.extractLsb'_append_extractLsb'_eq_extractLsb' rfl
  rw [h76, h765]
  exact BitVec.extractLsb'_append_extractLsb'_eq_extractLsb' rfl

/-- R151 after R152: bits 7 to 4 are kept, bits 3 to 0 are stored nowhere. -/
theorem packFlags_unpackFlags (v : Byte) : packFlags (unpackFlags v) = v &&& 0xF0 := by
  have hmask : v &&& 0xF0 = (v.extractLsb' 4 4 &&& BitVec.allOnes 4) ++ (v.extractLsb' 0 4 &&& 0#4) :=
    and_append_parts (m := 4) (n := 4) v (BitVec.allOnes 4) 0#4
  rw [hmask, BitVec.and_allOnes, BitVec.and_zero, ← flag_bits_append]
  rfl

/-- The flags of the low byte sit at the same bits of the operand (R138). -/
theorem unpackFlags_splitLo (v : Half) :
    unpackFlags (splitLo v) =
      { zero := v.extractLsb' 7 1, subtract := v.extractLsb' 6 1, halfCarry := v.extractLsb' 5 1, carry := v.extractLsb' 4 1 } := by
  simp [unpackFlags, splitLo, BitVec.extractLsb'_extractLsb'_of_le]

/-- `AF` read back after `SET.AF v`: the low nibble is dropped (R138). -/
theorem af_set_af (v : Half) (rf : RegFile) : WideName.af.get (WideName.af.set v rf) = v &&& 0xFFF0 := by
  have hmask : v &&& 0xFFF0 = (splitHi v &&& BitVec.allOnes 8) ++ (splitLo v &&& 0xF0) :=
    and_append_parts (m := 8) (n := 8) v (BitVec.allOnes 8) 0xF0
  rw [hmask, BitVec.and_allOnes, ← packFlags_unpackFlags]
  rfl

/-- The rule of `SET.AF` with the flags taken from the operand itself (R138). -/
theorem writesBy_af : WritesBy (opWriteWide .af) .setAF formV16 (fun v s => { s with
    rf.a := splitHi v
    rf.fl := { zero := v.extractLsb' 7 1, subtract := v.extractLsb' 6 1, halfCarry := v.extractLsb' 5 1, carry := v.extractLsb' 4 1 } }) := by
  simp only [← unpackFlags_splitLo]
  exact writesBy_wide .af

/-- A field read after a wide write. -/
theorem wide_thenAnswers_field {s : State} (hs : s.halted = false) (n : WideName) (v : Half) (m : FieldName) {w : Word}
    (hw : zext32 (m.get (n.set v s.rf)) = w) : ThenAnswers (n.setter v) m.getter s w :=
  thenAnswers_of_writeRegFile (d := fun rf => zext32 (m.get rf)) (n.exec_setter v s) m.exec_getter hs hw

/-! ### Pair views (41_pair_views.md) -/

/-- Settles O6: the rule of opcode group 3 at each of the four pairs, and the register file that reset loads. -/
theorem pairReadsComposeTwoBytes : Obligations.PairReadsComposeTwoBytes := by
  refine ⟨readsOnly_wide .bc, readsOnly_wide .de, readsOnly_wide .hl, readsOnly_wide .af, fun headless surfaceOk hs => ?_⟩
  have hread (n : WideName) {w : Word} (hw : zext32 (n.get State.reset.rf) = w) :
      Answers n.getter (State.resetWith headless surfaceOk) w := hw ▸ answers_wide hs n
  exact ⟨hread .bc (by decide), hread .de (by decide), hread .hl (by decide), hread .af (by decide)⟩

/-- Settles O7: the rule of opcode group 4 at each of the four pairs; the pair read afterwards composes the two parts of the
operand, for `AF` through the packed flag byte, which drops the low nibble. -/
theorem pairWritesSplitTheOperand : Obligations.PairWritesSplitTheOperand := by
  refine ⟨writesBy_wide .bc, writesBy_wide .de, writesBy_wide .hl, writesBy_af, fun s v hs => ?_,
    fun headless surfaceOk hs => ?_⟩
  · have hpair : zext32 (compose (splitHi v) (splitLo v)) = v.setWidth 32 := congrArg zext32 (compose_split v)
    exact ⟨wide_thenAnswers_wide hs .bc v .bc hpair, wide_thenAnswers_wide hs .de v .de hpair,
      wide_thenAnswers_wide hs .hl v .hl hpair, wide_thenAnswers_wide hs .af v .af (congrArg zext32 (af_set_af v s.rf))⟩
  · refine ⟨wide_thenAnswers_field hs .bc 0xBEEF .b ?_, wide_thenAnswers_field hs .bc 0xBEEF .c ?_,
      wide_thenAnswers_field hs .de 0x1234 .d ?_, wide_thenAnswers_field hs .de 0x1234 .e ?_,
      wide_thenAnswers_field hs .hl 0x00FF .h ?_, wide_thenAnswers_field hs .hl 0x00FF .l ?_,
      wide_thenAnswers_field hs .af 0x12FF .a ?_, wide_thenAnswers_field hs .af 0x12FF .f ?_⟩
    all_goals rw [resetWith_rf]; decide

end Sys2Proof.Machine
end

section
/-! The obligations of 42_flags.md about the packed flag byte (R151, R152) and the commands that read and write the flags (R154 to
R163). The flags are bits of R86 (`BitName`), their packed byte is field `f` (`FieldName.f`). -/

namespace Sys2Proof.Machine

/-! ### The packed flag byte -/

/-- R151 with every flag shifted to its place. -/
theorem packFlags_eq_shifts (fl : Flags) :
    packFlags fl = (fl.zero.setWidth 8 <<< 7) ||| (fl.subtract.setWidth 8 <<< 6) ||| (fl.halfCarry.setWidth 8 <<< 5) |||
      (fl.carry.setWidth 8 <<< 4) :=
  calc packFlags fl
    _ = (packFlags fl).setWidth 8 := (BitVec.setWidth_eq _).symm
    _ = _ := by
      simp only [packFlags, BitVec.setWidth_append_eq_shiftLeft_setWidth_or, BitVec.shiftLeft_or_distrib, ← BitVec.shiftLeft_add,
        BitVec.setWidth_zero, BitVec.or_zero]

/-- R151: bits 3 to 0 of the packed byte are zero. -/
theorem packFlags_toNat_mod_sixteen (fl : Flags) : (packFlags fl).toNat % 16 = 0 := by
  have hshift : (packFlags fl).toNat = (fl.zero ++ fl.subtract ++ fl.halfCarry ++ fl.carry).toNat <<< 4 := by
    simp only [packFlags, BitVec.toNat_append _ 0#4, BitVec.toNat_ofNat, Nat.zero_mod, Nat.or_zero]
  rw [hshift, Nat.shiftLeft_eq]
  exact Nat.mul_mod_left _ 16

/-- R152 after R151: each bit of the packed byte lies in the one part of the concatenation that holds its flag. The widths stay sums
(`-Nat.reduceAdd`), so that the rules for a part of a concatenation apply. -/
@[simp] theorem unpackFlags_packFlags (fl : Flags) : unpackFlags (packFlags fl) = fl := by
  unfold unpackFlags packFlags
  simp [BitVec.extractLsb'_append_eq_of_le, BitVec.extractLsb'_append_eq_right, -Nat.reduceAdd]

/-- Settles O9: R151 as shifts, its zero low nibble, and R152, which `unpackFlags` is by definition. -/
theorem packedFlagByteLayout : Obligations.PackedFlagByteLayout :=
  ⟨packFlags_eq_shifts, packFlags_toNat_mod_sixteen, fun _ => ⟨rfl, rfl, rfl, rfl⟩⟩

/-! ### Reading the flags (R154 to R157, R162) -/

/-- Settles O11: the rules of opcode groups 5 and 1 at the flags and at `f`; the bits of `f` are what `unpackFlags` gives back. -/
theorem flagReadsAnswerTheStoredBits : Obligations.FlagReadsAnswerTheStoredBits := by
  refine ⟨readsOnly_bit .zero, readsOnly_bit .subtract, readsOnly_bit .halfCarry, readsOnly_bit .carry, readsOnly_field .f,
    fun rf => ?_, fun headless surfaceOk hs => ?_⟩
  · have hbits : unpackFlags rf.f = rf.fl := unpackFlags_packFlags rf.fl
    exact ⟨congrArg Flags.zero hbits, congrArg Flags.subtract hbits, congrArg Flags.halfCarry hbits,
      congrArg Flags.carry hbits, splitLo_compose rf.a rf.f⟩
  · have hF : zext32 State.reset.rf.f = 0xB0 := by decide
    exact ⟨answers_bit hs .zero, answers_bit hs .subtract, answers_bit hs .halfCarry, answers_bit hs .carry,
      hF ▸ answers_field hs .f⟩

/-! ### Writing the flags (R158 to R161, R163) -/

section
variable {s : State} {i : Instr} {rf : RegFile} {w : Word} (hs : s.halted = false) (hi : exec i s = writeRegFile s rf)
include hs hi

/-- A field read after a register-file write. -/
theorem thenAnswers_field (n : FieldName) (hw : zext32 (n.get rf) = w) : ThenAnswers i n.getter s w :=
  thenAnswers_of_writeRegFile (d := fun rf => zext32 (n.get rf)) hi n.exec_getter hs hw

/-- A wide read after a register-file write. -/
theorem thenAnswers_wide (n : WideName) (hw : zext32 (n.get rf) = w) : ThenAnswers i n.getter s w :=
  thenAnswers_of_writeRegFile (d := fun rf => zext32 (n.get rf)) hi n.exec_getter hs hw

/-- A bit read after a register-file write. -/
theorem thenAnswers_bit (n : BitName) (hw : zext32 (n.get rf) = w) : ThenAnswers i n.getter s w :=
  thenAnswers_of_writeRegFile (d := fun rf => zext32 (n.get rf)) hi n.exec_getter hs hw

end

/-- `F` read back after `SET.F v`: the low nibble is dropped (R163). -/
theorem setF_thenAnswers_getF {s : State} (hs : s.halted = false) (v : Byte) :
    ThenAnswers (.setF v) .getF s (zext32 (v &&& 0xF0)) :=
  thenAnswers_field hs (FieldName.exec_setter .f v s) .f (congrArg zext32 (packFlags_unpackFlags v))

/-- Settles O12: the rules of opcode groups 6 and 2 at the flags and at `f`. After a reset the examples read the register file that
every reset loads; after `SET.F` they read the operand alone, whatever the state held. -/
theorem flagWritesChangeTheirFlagOnly : Obligations.FlagWritesChangeTheirFlagOnly := by
  refine ⟨writesBy_bit .zero, writesBy_bit .subtract, writesBy_bit .halfCarry, writesBy_bit .carry, writesBy_field .f,
    fun headless surfaceOk hs => ?_, fun s hs => ?_⟩
  · have hset (n : BitName) (v : Bit) := n.exec_setter v (State.resetWith headless surfaceOk)
    refine ⟨thenAnswers_field hs (hset .zero 0) .f ?_, thenAnswers_wide hs (hset .zero 0) .af ?_,
      thenAnswers_field hs (hset .subtract 1) .f ?_, thenAnswers_field hs (hset .halfCarry 0) .f ?_,
      thenAnswers_field hs (hset .carry 0) .f ?_⟩
    all_goals rw [resetWith_rf]; decide
  · have hset : exec (.setF 0x5A) s = writeRegFile s { s.rf with fl := unpackFlags 0x5A } := FieldName.exec_setter .f 0x5A s
    exact ⟨setF_thenAnswers_getF hs 0x5A, thenAnswers_bit hs hset .zero rfl, thenAnswers_bit hs hset .subtract rfl,
      thenAnswers_bit hs hset .halfCarry rfl, thenAnswers_bit hs hset .carry rfl, setF_thenAnswers_getF hs 0x0F,
      setF_thenAnswers_getF hs 0xFF⟩

end Sys2Proof.Machine
end

section
/-! The obligations of 43_pixel_primitives.md about the interleave formula (R192) and the addressing mode (R195). -/

namespace Sys2Proof.Machine

/-! ### The interleave (R192) -/

theorem interleave_getElem (hi lo : Byte) (i : Fin 8) :
    (interleave hi lo)[i] = hi.extractLsb' (7 - i.val) 1 ++ lo.extractLsb' (7 - i.val) 1 :=
  Vector.getElem_ofFn i.isLt

/-- Two bits side by side are a number in base 2. -/
theorem bit_append_toNat (p q : Bit) : (p ++ q).toNat = 2 * p.toNat + q.toNat := by
  rw [BitVec.toNat_append, ← Nat.shiftLeft_add_eq_or_of_lt q.isLt, Nat.shiftLeft_eq, Nat.mul_comm, Nat.pow_one]

/-- Bit `k` of a byte, as a part of it and as R192 writes it. -/
theorem extractLsb'_one_toNat (v : Byte) (k : Nat) : (v.extractLsb' k 1).toNat = ((v >>> k) &&& 1).toNat := by
  have hone : (1 : Byte).toNat = 1 := rfl
  rw [BitVec.extractLsb'_toNat, BitVec.toNat_and, BitVec.toNat_ushiftRight, hone, Nat.and_one_is_mod, Nat.pow_one]

/-- Settles O23: each index is two bits side by side, and each of them is a shifted and masked byte. -/
theorem interleaveIsTheSourceFormula : Obligations.InterleaveIsTheSourceFormula := by
  refine fun hi lo i => ⟨?_, interleave_getElem hi lo i⟩
  rw [interleave_getElem, bit_append_toNat, extractLsb'_one_toNat, extractLsb'_one_toNat]

/-! ### The addressing mode (R195) -/

/-- The mode is a function of `lcdc & 0x10`, whose bit 4 is that of `lcdc`. -/
theorem addressingMode_and_mask (lcdc : Byte) : addressingMode (lcdc &&& 0x10) = addressingMode lcdc := by
  have hmask : (0x10 : Byte).extractLsb' 4 1 = BitVec.allOnes 1 := by decide
  unfold addressingMode
  rw [BitVec.extractLsb'_and, hmask, BitVec.and_allOnes]

theorem addressingMode_eq_of_and_eq {lcdc lcdc' : Byte} (h : lcdc &&& 0x10 = lcdc' &&& 0x10) :
    addressingMode lcdc = addressingMode lcdc' := by
  rw [← addressingMode_and_mask lcdc, h, addressingMode_and_mask]

/-- A cell's tile address depends on the mode and the cell's tile index only (R213, R197). -/
theorem cellAddr_congr {s s' : State} {offset : Nat} (hmode : addressingMode s.px.lcdc = addressingMode s'.px.lcdc)
    (hindex : s.tileIndex (BitVec.ofNat 10 offset) = s'.tileIndex (BitVec.ofNat 10 offset)) :
    cellAddr s offset = cellAddr s' offset := by
  unfold cellAddr
  rw [hmode, hindex]

/-- Settles O26: the mode is that of the masked byte, so a control byte has the mode and the base of `0x10` or of `0`. -/
theorem addressingModeIsControlBitFour : Obligations.AddressingModeIsControlBitFour := by
  refine ⟨fun lcdc h => ?unsigned, fun lcdc h => ?signed, fun s s' offset hlcdc hindex => ?address⟩
  case unsigned =>
    rw [← addressingMode_and_mask, h]
    decide
  case signed =>
    rw [← addressingMode_and_mask, h]
    decide
  case address => exact cellAddr_congr (addressingMode_eq_of_and_eq hlcdc) hindex

end Sys2Proof.Machine
end

section
/-! The obligations of 44_render.md about the ends of PX.RENDER: the no-op when headless (R211) and the answers of the surface
(R216). -/

namespace Sys2Proof.Machine

/-! ### The ends of a render -/

section
variable {s : State} (hs : s.halted = false)
include hs

/-- R211. -/
theorem exec_pxRender_headless (hh : s.px.headless = true) : exec .pxRender s = .next (s.respond .ok 0 []) :=
  calc exec .pxRender s
    _ = if s.px.headless then done s else presentFrame s (renderCalls s) (renderFrame s) := whenRunning_running _ hs
    _ = done s := if_pos hh

/-- A render that is not headless hands its frame over (R216). -/
theorem exec_pxRender_screen (hh : s.px.headless = false) :
    exec .pxRender s = presentFrame s (renderCalls s) (renderFrame s) :=
  calc exec .pxRender s
    _ = if s.px.headless then done s else presentFrame s (renderCalls s) (renderFrame s) := whenRunning_running _ hs
    _ = presentFrame s (renderCalls s) (renderFrame s) := if_neg (ne_true_of_eq_false hh)

end

/-- The surface takes the frame. -/
theorem presentFrame_ok {s : State} (h : s.env.surface = .ok) (cs : List PortCall) (fb : Frame) :
    presentFrame s cs fb = .next (s.respond .ok 0 (cs ++ [.present fb 256 256])) := by
  unfold presentFrame
  rw [h]

/-- The surface refuses the frame (R242). -/
theorem presentFrame_err {s : State} (h : s.env.surface = .err) (cs : List PortCall) (fb : Frame) :
    presentFrame s cs fb = .next (raisePresentFailure s (cs ++ [.present fb 256 256])) := by
  unfold presentFrame
  rw [h]

/-! ### The port calls before `Present` (R72) -/

theorem isPresent_of_mem_cellCalls {s : State} {offset : Nat} {c : PortCall} (h : c ∈ cellCalls s offset) :
    c.isPresent = false := by
  rcases List.mem_cons.mp h with rfl | hread
  · rfl
  · obtain ⟨_, -, rfl⟩ := List.mem_map.mp hread
    rfl

theorem isPresent_of_mem_renderCalls {s : State} {c : PortCall} (h : c ∈ renderCalls s) : c.isPresent = false := by
  obtain ⟨_, -, hcell⟩ := List.mem_flatMap.mp h
  exact isPresent_of_mem_cellCalls hcell

/-! ### The obligations -/

/-- Settles O30: a running headless render answers at once. -/
theorem headlessRenderIsANoOp : Obligations.HeadlessRenderIsANoOp :=
  fun _ hs hh => exec_pxRender_headless hs hh

/-- Settles O31: a render with a screen is the hand-over of its frame, taken for each answer of the surface; the calls before it are
those of the cells, of which none is a `Present`. -/
theorem renderPresentsOnceAndReportsTheAnswer : Obligations.RenderPresentsOnceAndReportsTheAnswer := by
  refine fun s hs hh => ⟨fun hok => ?ok, fun herr => ?err, fun _ => isPresent_of_mem_renderCalls⟩
  case ok => exact (exec_pxRender_screen hs hh).trans (presentFrame_ok hok _ _)
  case err => exact (exec_pxRender_screen hs hh).trans (presentFrame_err herr _ _)

end Sys2Proof.Machine
end

section
/-! The obligation of 60_exceptions.md about the commands that cannot fail (R243): every command but PX.RENDER is one of the three
shared operations that end in an answer. -/

namespace Sys2Proof.Machine

/-- Every command but PX.RENDER is a read command, a register-file write or a pixel decoder write. -/
theorem exec_cases_of_ne_pxRender {i : Instr} (hi : i ≠ .pxRender) (s : State) :
    (∃ d, exec i s = readCommand s d) ∨ (∃ rf, exec i s = writeRegFile s rf) ∨ ∃ px, exec i s = writePixel s px := by
  cases i
  case pxRender => exact absurd rfl hi
  case rfNew | setA | setB | setC | setD | setE | setH | setL | setF | setBC | setDE | setHL | setAF | setSP | setPC | setIme |
      setZero | setSubtract | setHalfCarry | setCarry =>
    exact .inr (.inl ⟨_, rfl⟩)
  case setLcdc | setStat => exact .inr (.inr ⟨_, rfl⟩)
  all_goals exact .inl ⟨_, rfl⟩

/-- The outcome of a command that cannot fail (R243): a next state with `halted` as it was, answered `OK` if the instance runs. -/
def CannotFail (s : State) (o : Host.Outcome State Fault Refusal) : Prop :=
  ∃ t : State, o = .next t ∧ t.halted = s.halted ∧
    (s.halted = false → ∃ d : Word, t.out.rsp = some { status := .ok, data := d })

/-- A gated command that ends in an answer and keeps `halted` cannot fail: a halted instance answers `HALTED` (R244). -/
theorem whenRunning_answer_cannotFail {s u : State} (d : Word) (hu : u.halted = s.halted) :
    CannotFail s (whenRunning s (answer u d)) := by
  cases hs : s.halted with
  | true => exact ⟨_, whenRunning_halted _ hs, rfl, fun hr => absurd hs (ne_true_of_eq_false hr)⟩
  | false => exact ⟨_, whenRunning_running _ hs, hu, fun _ => ⟨d, rfl⟩⟩

theorem readCommand_cannotFail (s : State) (d : Word) : CannotFail s (readCommand s d) :=
  whenRunning_answer_cannotFail d rfl

theorem writeRegFile_cannotFail (s : State) (rf : RegFile) : CannotFail s (writeRegFile s rf) :=
  whenRunning_answer_cannotFail (u := { s with rf := rf }) 0 rfl

theorem writePixel_cannotFail (s : State) (px : PixelDecoder) : CannotFail s (writePixel s px) :=
  whenRunning_answer_cannotFail (u := { s with px := px }) 0 rfl

/-- Settles O17: none of the three shared operations that are left without PX.RENDER can fail. -/
theorem onlyRenderCanFail : Obligations.OnlyRenderCanFail := by
  intro i s hi
  change CannotFail s (exec i s)
  rcases exec_cases_of_ne_pxRender hi s with ⟨d, h⟩ | ⟨rf, h⟩ | ⟨px, h⟩ <;> rw [h]
  · exact readCommand_cannotFail s d
  · exact writeRegFile_cannotFail s rf
  · exact writePixel_cannotFail s px

end Sys2Proof.Machine
end

section
/-! The encoding of 30_encoding.md: what the decoder reads from a word depends on the opcode's constructor and on the operand bits
of its form (R88), and the encoder writes exactly those bits (R92). -/

namespace Sys2Proof

open Machine

/-! ### The operand of an operation, read from an argument -/

/-- The same operation with its operand read from `arg` in its operand form (R88). -/
def Instr.withArg (i : Instr) (arg : Half) : Instr :=
  match i with
  | .setA _ => .setA (formV8 arg)
  | .setB _ => .setB (formV8 arg)
  | .setC _ => .setC (formV8 arg)
  | .setD _ => .setD (formV8 arg)
  | .setE _ => .setE (formV8 arg)
  | .setH _ => .setH (formV8 arg)
  | .setL _ => .setL (formV8 arg)
  | .setF _ => .setF (formV8 arg)
  | .setBC _ => .setBC (formV16 arg)
  | .setDE _ => .setDE (formV16 arg)
  | .setHL _ => .setHL (formV16 arg)
  | .setAF _ => .setAF (formV16 arg)
  | .setSP _ => .setSP (formV16 arg)
  | .setPC _ => .setPC (formV16 arg)
  | .setZero _ => .setZero (formV1 arg)
  | .setSubtract _ => .setSubtract (formV1 arg)
  | .setHalfCarry _ => .setHalfCarry (formV1 arg)
  | .setCarry _ => .setCarry (formV1 arg)
  | .setIme _ => .setIme (formV1 arg)
  | .setLcdc _ => .setLcdc (formV8 arg)
  | .setStat _ => .setStat (formV8 arg)
  | .pxIlv _ _ => .pxIlv (formHi arg) (formLo arg)
  | .pxTaddr _ => .pxTaddr (formV16 arg)
  | .pxPal _ => .pxPal (formV2 arg)
  | i => i

@[simp] theorem withArg_opcode (i : Instr) (arg : Half) : (i.withArg arg).opcode = i.opcode := by
  cases i <;> rfl

@[simp] theorem withArg_withArg (i : Instr) (arg arg' : Half) : (i.withArg arg).withArg arg' = i.withArg arg' := by
  cases i <;> rfl

/-- The operand field of R92 holds the operand. -/
@[simp] theorem withArg_arg (i : Instr) : i.withArg i.arg = i := by
  cases i
  case setA v | setB v | setC v | setD v | setE v | setH v | setL v | setF v | setLcdc v | setStat v =>
    exact congrArg _ (formV8_setWidth v)
  case setZero v | setSubtract v | setHalfCarry v | setCarry v | setIme v => exact congrArg _ (formV1_setWidth v)
  case pxPal ix => exact congrArg _ (formV2_setWidth ix)
  case pxIlv hi lo => exact congrArg₂ _ (formHi_append hi lo) (formLo_append hi lo)
  all_goals rfl

/-! ### The bits an operand form keeps -/

/-- The low bits of an argument, zero-extended, are the argument under a mask. -/
theorem setWidth_extractLsb'_zero (arg : Half) {k : Nat} (hk : k ≤ 16) :
    (arg.extractLsb' 0 k).setWidth 16 = arg &&& BitVec.ofNat 16 (2 ^ k - 1) := by
  have hpow : 2 ^ k ≤ 2 ^ 16 := Nat.pow_le_pow_right (by decide) hk
  have hpos : 0 < 2 ^ k := Nat.two_pow_pos k
  have hmask : (2 ^ k - 1) % 2 ^ 16 = 2 ^ k - 1 := Nat.mod_eq_of_lt (by omega)
  apply BitVec.eq_of_toNat_eq
  rw [BitVec.toNat_setWidth, BitVec.extractLsb'_toNat, BitVec.toNat_and, BitVec.toNat_ofNat, hmask,
    Nat.and_two_pow_sub_one_eq_mod, Nat.shiftRight_zero, Nat.mod_eq_of_lt ((Nat.mod_lt _ hpos).trans_le hpow)]

theorem setWidth_formV1 (arg : Half) : (formV1 arg).setWidth 16 = arg &&& ~~~OperandForm.v1.ignored :=
  setWidth_extractLsb'_zero arg (by decide)

theorem setWidth_formV2 (arg : Half) : (formV2 arg).setWidth 16 = arg &&& ~~~OperandForm.v2.ignored :=
  setWidth_extractLsb'_zero arg (by decide)

theorem setWidth_formV8 (arg : Half) : (formV8 arg).setWidth 16 = arg &&& ~~~OperandForm.v8.ignored :=
  setWidth_extractLsb'_zero arg (by decide)

theorem formV16_eq_and (arg : Half) : formV16 arg = arg &&& ~~~OperandForm.v16.ignored :=
  BitVec.and_allOnes.symm

theorem formHi_append_formLo (arg : Half) : formHi arg ++ formLo arg = arg &&& ~~~OperandForm.hiLo.ignored :=
  (compose_split arg).trans BitVec.and_allOnes.symm

/-- Writing the operand read from an argument gives the argument without the bits the form ignores (R88, R92). -/
theorem arg_withArg (i : Instr) (arg : Half) : (i.withArg arg).arg = arg &&& ~~~i.form.ignored := by
  cases i
  case setA | setB | setC | setD | setE | setH | setL | setF | setLcdc | setStat => exact setWidth_formV8 arg
  case setZero | setSubtract | setHalfCarry | setCarry | setIme => exact setWidth_formV1 arg
  case pxPal => exact setWidth_formV2 arg
  case pxIlv => exact formHi_append_formLo arg
  case setBC | setDE | setHL | setAF | setSP | setPC | pxTaddr => exact formV16_eq_and arg
  all_goals exact BitVec.and_zero.symm

/-- Two arguments give one operation exactly when they agree in the bits its form uses. -/
theorem withArg_eq_iff (i : Instr) (arg arg' : Half) :
    i.withArg arg = i.withArg arg' ↔ arg &&& ~~~i.form.ignored = arg' &&& ~~~i.form.ignored := by
  rw [← arg_withArg, ← arg_withArg]
  refine ⟨fun h => by rw [h], fun h => ?_⟩
  calc i.withArg arg
    _ = (i.withArg arg).withArg (i.withArg arg).arg := (withArg_arg _).symm
    _ = (i.withArg arg').withArg (i.withArg arg').arg := by rw [h, withArg_withArg, withArg_withArg]
    _ = i.withArg arg' := withArg_arg _

/-! ### The opcode map (R87) and the encoder's opcodes (R85, R86) -/

/-- The opcode selects the constructor, `arg` its operand. -/
theorem decodeOp_eq_map_withArg (n : Nat) (arg : Half) : decodeOp n arg = (decodeOp n 0).map (·.withArg arg) := by
  unfold decodeOp
  split <;> rfl

/-- The encoder's opcode stands in the table at its own operation. -/
theorem decodeOp_opcode (i : Instr) (arg : Half) : decodeOp i.opcode.toNat arg = some (i.withArg arg) := by
  cases i <;> rfl

theorem decodeOp_zero_opcode : ∀ op : Byte, (decodeOp op.toNat 0).all (·.opcode = op) := by
  decide

theorem decodeOp_zero_form : ∀ op : Byte, (decodeOp op.toNat 0).map (·.form) = opcodeForm op := by
  decide

theorem decodeOp_zero_isNone : ∀ op : Byte, (decodeOp op.toNat 0).isNone = reservedOpcode op := by
  decide

/-- The decoder and the encoder give an opcode to the same operation. -/
theorem opcode_of_decodeOp {op : Byte} {arg : Half} {i : Instr} (h : decodeOp op.toNat arg = some i) : i.opcode = op := by
  rw [decodeOp_eq_map_withArg] at h
  obtain ⟨j, hj, rfl⟩ := Option.map_eq_some_iff.mp h
  have hop := decodeOp_zero_opcode op
  rw [hj] at hop
  simpa using hop

/-- An assigned opcode is the opcode of an operation with the operand form of R87. -/
theorem exists_opcode_of_form {op : Byte} {f : OperandForm} (h : opcodeForm op = some f) :
    ∃ i : Instr, i.opcode = op ∧ i.form = f := by
  rw [← decodeOp_zero_form] at h
  obtain ⟨i, hi, hf⟩ := Option.map_eq_some_iff.mp h
  exact ⟨i, opcode_of_decodeOp hi, hf⟩

theorem decodeOp_eq_none_iff (op : Byte) (arg : Half) : decodeOp op.toNat arg = none ↔ reservedOpcode op = true := by
  rw [decodeOp_eq_map_withArg, Option.map_eq_none_iff, ← decodeOp_zero_isNone, Option.isNone_iff_eq_none]

/-! ### The decoder on whole words -/

theorem decode_opcode_append (i : Instr) (arg : Half) : decode (i.opcode ++ arg) = .ok (i.withArg arg) :=
  decode_append_of_some (decodeOp_opcode i arg)

/-- A word that decodes to an operation carries its opcode. -/
theorem opField_of_decode {w : Command} {i : Instr} (h : decode w = .ok i) : opField w = i.opcode := by
  unfold decode at h
  split at h
  · next hi =>
    cases h
    exact (opcode_of_decodeOp hi).symm
  · cases h

/-- A word is rejected exactly when its opcode is reserved (R89). -/
theorem decode_append_eq_error_iff (op : Byte) (arg : Half) :
    decode (op ++ arg) = .error (.reservedOpcode op) ↔ reservedOpcode op = true := by
  rw [← decodeOp_eq_none_iff op arg]
  refine ⟨fun h => ?_, decode_append_of_none⟩
  cases hi : decodeOp op.toNat arg with
  | none => rfl
  | some i => rw [decode_append_of_some hi] at h; cases h

/-- What an assembler word is made of (R92). -/
theorem wellFormed_iff (w : Command) :
    Command.wellFormed w = true ↔ ∃ f, opcodeForm (opField w) = some f ∧ argField w &&& f.ignored = 0 := by
  unfold Command.wellFormed Command.assigned Command.ignoredBitsZero opField argField
  cases opcodeForm (w.extractLsb' 16 8) <;> simp

/-- Clearing bits that are zero changes nothing. -/
theorem and_not_eq_self {n : Nat} {x m : BitVec n} (h : x &&& m = 0) : x &&& ~~~m = x :=
  calc x &&& ~~~m
    _ = x &&& m ||| x &&& ~~~m := by rw [h]; exact BitVec.zero_or.symm
    _ = x &&& (m ||| ~~~m) := (BitVec.and_or_distrib_left).symm
    _ = x := by rw [BitVec.or_not_self, BitVec.and_allOnes]

/-! ### The obligations -/

/-- Settles O50: the encoded word carries the operation's opcode, and its operand field holds the operand. -/
theorem decodingAnEncodedOperationGivesItBack : Obligations.DecodingAnEncodedOperationGivesItBack := by
  intro i
  calc decode (encode i)
    _ = .ok (i.withArg i.arg) := decode_opcode_append i i.arg
    _ = .ok i := by rw [withArg_arg]

/-- Settles O51: the word decodes to the operation of its opcode; encoding that clears only bits that are zero already. -/
theorem encodingADecodedAssemblerWordGivesItBack : Obligations.EncodingADecodedAssemblerWordGivesItBack := by
  intro w hw
  obtain ⟨f, hform, hzero⟩ := (wellFormed_iff w).mp hw
  obtain ⟨i, hop, rfl⟩ := exists_opcode_of_form hform
  have hword : i.opcode ++ argField w = w := by rw [hop, opField_append_argField]
  refine ⟨i.withArg (argField w), by rw [← decode_opcode_append, hword], ?_⟩
  calc encode (i.withArg (argField w))
    _ = i.opcode ++ (argField w &&& ~~~i.form.ignored) := by unfold encode; rw [withArg_opcode, arg_withArg]
    _ = w := by rw [and_not_eq_self hzero, hword]

/-- Settles O52: both words decode to the operation of the opcode, with an operand that is the used bits of `arg`. -/
theorem decodingIgnoresExactlyTheUnusedBits : Obligations.DecodingIgnoresExactlyTheUnusedBits := by
  intro op f arg arg' hform
  obtain ⟨i, rfl, rfl⟩ := exists_opcode_of_form hform
  rw [decode_opcode_append, decode_opcode_append, Except.ok.injEq, withArg_eq_iff]

/-- Settles O53: each word is run through the table. -/
theorem sampleWordsDecode : Obligations.SampleWordsDecode :=
  ⟨rfl, rfl, rfl, rfl, rfl, rfl, rfl, rfl, rfl, rfl, rfl, rfl, rfl⟩

end Sys2Proof
end

section
/-! What a command does to the block, said once for all 47 operations: the register file and the pixel decoder it leaves, the data
it answers, and the inversion `exec_next` from which the frames over all commands follow. -/

namespace Sys2Proof

open Machine

/-! ### The effect of an operation on the stored cells -/

/-- The register file a performed operation leaves: column "written by" of 10_state.md section 1. -/
def Instr.rfAfter (i : Instr) (rf : RegFile) : RegFile :=
  match i with
  | .rfNew => loadSnapshot rf
  | .setA v => FieldName.a.set v rf
  | .setB v => FieldName.b.set v rf
  | .setC v => FieldName.c.set v rf
  | .setD v => FieldName.d.set v rf
  | .setE v => FieldName.e.set v rf
  | .setH v => FieldName.h.set v rf
  | .setL v => FieldName.l.set v rf
  | .setF v => FieldName.f.set v rf
  | .setBC v => WideName.bc.set v rf
  | .setDE v => WideName.de.set v rf
  | .setHL v => WideName.hl.set v rf
  | .setAF v => WideName.af.set v rf
  | .setSP v => WideName.sp.set v rf
  | .setPC v => WideName.pc.set v rf
  | .setZero v => BitName.zero.set v rf
  | .setSubtract v => BitName.subtract.set v rf
  | .setHalfCarry v => BitName.halfCarry.set v rf
  | .setCarry v => BitName.carry.set v rf
  | .setIme v => BitName.ime.set v rf
  | _ => rf

/-- The pixel decoder a performed operation leaves. -/
def Instr.pxAfter (i : Instr) (px : PixelDecoder) : PixelDecoder :=
  match i with
  | .setLcdc v => { px with lcdc := v }
  | .setStat v => { px with stat := v }
  | _ => px

/-- The data of a performed operation's `OK` response. -/
def Instr.result (i : Instr) (rf : RegFile) (px : PixelDecoder) : Word :=
  match i with
  | .getA => zext32 rf.a
  | .getB => zext32 rf.b
  | .getC => zext32 rf.c
  | .getD => zext32 rf.d
  | .getE => zext32 rf.e
  | .getH => zext32 rf.h
  | .getL => zext32 rf.l
  | .getF => zext32 rf.f
  | .getBC => zext32 rf.bc
  | .getDE => zext32 rf.de
  | .getHL => zext32 rf.hl
  | .getAF => zext32 rf.af
  | .getSP => zext32 rf.sp
  | .getPC => zext32 rf.pc
  | .getZero => zext32 rf.fl.zero
  | .getSubtract => zext32 rf.fl.subtract
  | .getHalfCarry => zext32 rf.fl.halfCarry
  | .getCarry => zext32 rf.fl.carry
  | .getIme => zext32 rf.ime
  | .getLcdc => zext32 px.lcdc
  | .getStat => zext32 px.stat
  | .pxIlv hi lo => zext32 (packIndices (interleave hi lo))
  | .pxTaddr off => zext32 (tileAddr (addressingMode px.lcdc) off)
  | .pxPal ix => palette ix
  | _ => 0

end Sys2Proof

namespace Sys2Proof.Machine

/-- The state a performed operation leaves, before its response and without a failure. -/
def State.after (s : State) (i : Instr) : State :=
  { s with rf := i.rfAfter s.rf, px := i.pxAfter s.px }

@[simp] theorem after_rf (s : State) (i : Instr) : (s.after i).rf = i.rfAfter s.rf := rfl
@[simp] theorem after_px (s : State) (i : Instr) : (s.after i).px = i.pxAfter s.px := rfl
@[simp] theorem after_env (s : State) (i : Instr) : (s.after i).env = s.env := rfl
@[simp] theorem after_halted (s : State) (i : Instr) : (s.after i).halted = s.halted := rfl

/-! ### What a command can do -/

variable {i : Instr} {s t : State}

/-- Every command but PX.RENDER (R84 steps 1 and 3). -/
theorem exec_eq_of_ne_pxRender (hi : i ≠ .pxRender) (s : State) :
    exec i s = whenRunning s (.next ((s.after i).respond .ok (i.result s.rf s.px) [])) := by
  cases i
  case pxRender => exact absurd rfl hi
  all_goals rfl

theorem exec_halted (i : Instr) (hs : s.halted = true) : exec i s = .next (s.respond .halted 0 []) := by
  by_cases hi : i = .pxRender
  · subst hi
    exact whenRunning_halted _ hs
  · rw [exec_eq_of_ne_pxRender hi, whenRunning_halted _ hs]

theorem exec_running_of_ne_pxRender (hs : s.halted = false) (hi : i ≠ .pxRender) :
    exec i s = .next ((s.after i).respond .ok (i.result s.rf s.px) []) := by
  rw [exec_eq_of_ne_pxRender hi, whenRunning_running _ hs]

/-- Everything a command can do when it answers a next state: it is refused by a halted instance, it is performed without a port
call, or it is a render that hands its frame to the surface. -/
theorem exec_next (h : exec i s = .next t) :
    (s.halted = true ∧ t = s.respond .halted 0 []) ∨
    (s.halted = false ∧ (i = .pxRender → s.px.headless = true) ∧ t = (s.after i).respond .ok (i.result s.rf s.px) []) ∨
    (s.halted = false ∧ i = .pxRender ∧ s.px.headless = false ∧
      (t = s.respond .ok 0 (renderCalls s ++ [.present (renderFrame s) 256 256]) ∨
        t = raisePresentFailure s (renderCalls s ++ [.present (renderFrame s) 256 256]))) := by
  by_cases hi : i = .pxRender
  · subst hi
    rcases execPxRender_next h with ⟨hs, ht⟩ | ⟨hs, hh, ht⟩ | ⟨hs, hh, -, ht⟩ | ⟨hs, hh, -, ht⟩
    · exact .inl ⟨hs, ht⟩
    · exact .inr (.inl ⟨hs, fun _ => hh, ht⟩)
    · exact .inr (.inr ⟨hs, rfl, hh, .inl ht⟩)
    · exact .inr (.inr ⟨hs, rfl, hh, .inr ht⟩)
  · rw [exec_eq_of_ne_pxRender hi] at h
    rcases whenRunning_next h with ⟨hs, ht⟩ | ⟨hs, ht⟩
    · exact .inl ⟨hs, ht⟩
    · cases ht
      exact .inr (.inl ⟨hs, fun e => absurd e hi, rfl⟩)

theorem exec_rf (h : exec i s = .next t) : t.rf = if s.halted then s.rf else i.rfAfter s.rf := by
  rcases exec_next h with ⟨hs, rfl⟩ | ⟨hs, -, rfl⟩ | ⟨hs, rfl, -, rfl | rfl⟩ <;> simp [hs, Instr.rfAfter]

theorem exec_px (h : exec i s = .next t) : t.px = if s.halted then s.px else i.pxAfter s.px := by
  rcases exec_next h with ⟨hs, rfl⟩ | ⟨hs, -, rfl⟩ | ⟨hs, rfl, -, rfl | rfl⟩ <;> simp [hs, Instr.pxAfter]

/-- No command changes the environment. -/
theorem exec_env (h : exec i s = .next t) : t.env = s.env := by
  rcases exec_next h with ⟨-, rfl⟩ | ⟨-, -, rfl⟩ | ⟨-, -, -, rfl | rfl⟩ <;> rfl

theorem exec_keeps_halted (hi : i ≠ .pxRender) (h : exec i s = .next t) : t.halted = s.halted := by
  rcases exec_next h with ⟨-, rfl⟩ | ⟨-, -, rfl⟩ | ⟨-, rfl, -⟩
  · rfl
  · rfl
  · exact absurd rfl hi

/-- A render whose frame the surface takes (R216). -/
theorem exec_pxRender_ok (hs : s.halted = false) (hh : s.px.headless = false) (hsurf : s.env.surface = .ok) :
    exec .pxRender s = .next (s.respond .ok 0 (renderCalls s ++ [.present (renderFrame s) 256 256])) :=
  (exec_pxRender_screen hs hh).trans (presentFrame_ok hsurf _ _)

/-- A render whose frame the surface refuses (R242). -/
theorem exec_pxRender_err (hs : s.halted = false) (hh : s.px.headless = false) (hsurf : s.env.surface = .err) :
    exec .pxRender s = .next (raisePresentFailure s (renderCalls s ++ [.present (renderFrame s) 256 256])) :=
  (exec_pxRender_screen hs hh).trans (presentFrame_err hsurf _ _)

/-- A render that waits for a surface that never answers does not end (R283). -/
theorem exec_pxRender_never (hs : s.halted = false) (hh : s.px.headless = false) (hsurf : s.env.surface = .never) :
    exec .pxRender s = .fault .presentNeverAnswers := by
  rw [exec_pxRender_screen hs hh]
  unfold presentFrame
  rw [hsurf]

/-- Every command answers a next state, but for that render. -/
theorem exec_answers (h : ¬(i = .pxRender ∧ s.halted = false ∧ s.px.headless = false ∧ s.env.surface = .never)) :
    ∃ t, exec i s = .next t := by
  cases hs : s.halted with
  | true => exact ⟨_, exec_halted i hs⟩
  | false =>
    by_cases hi : i = .pxRender
    · subst hi
      cases hh : s.px.headless with
      | true => exact ⟨_, exec_pxRender_headless hs hh⟩
      | false =>
        cases hsurf : s.env.surface with
        | ok => exact ⟨_, exec_pxRender_ok hs hh hsurf⟩
        | err => exact ⟨_, exec_pxRender_err hs hh hsurf⟩
        | never => exact absurd ⟨rfl, hs, hh, hsurf⟩ h
    · exact ⟨_, exec_running_of_ne_pxRender hs hi⟩

/-- Settles O32: a command that answers a next state is no fault, and the one that does not is the render of
`exec_pxRender_never`. -/
theorem renderDoesNotEndWithoutAnAnswer : Obligations.RenderDoesNotEndWithoutAnAnswer := by
  intro i s
  refine ⟨⟨fun hfault => ?_, ?_⟩, exec_answers⟩
  · by_contra hcond
    obtain ⟨t, ht⟩ := exec_answers hcond
    rw [hfault] at ht
    cases ht
  · rintro ⟨rfl, hs, hh, hsurf⟩
    exact exec_pxRender_never hs hh hsurf

/-! ### Responses and port calls -/

/-- Settles O20: of the ends of a command only the hand-over of a frame has port calls. -/
theorem onlyRenderTouchesPorts : Obligations.OnlyRenderTouchesPorts := by
  intro i s t h hquiet
  rcases exec_next h with ⟨-, rfl⟩ | ⟨-, -, rfl⟩ | ⟨hs, hi, hh, -⟩
  · rfl
  · rfl
  · simp [hs, hi, hh] at hquiet

/-- R82: the status stands above the data. -/
theorem word_status (r : Response) : r.word.extractLsb' 32 4 = r.status.code := BitVec.extractLsb'_append_eq_left

theorem word_data (r : Response) : r.word.extractLsb' 0 32 = r.data := BitVec.extractLsb'_append_eq_right

/-- A command shows one response, with data only when it is `OK`. -/
theorem exec_rsp (h : exec i s = .next t) : ∃ r, t.out.rsp = some r ∧ (r.status ≠ .ok → r.data = 0) := by
  rcases exec_next h with ⟨-, rfl⟩ | ⟨-, -, rfl⟩ | ⟨-, -, -, rfl | rfl⟩
  · exact ⟨_, rfl, fun _ => rfl⟩
  · exact ⟨_, rfl, fun hne => absurd rfl hne⟩
  · exact ⟨_, rfl, fun _ => rfl⟩
  · exact ⟨_, rfl, fun _ => rfl⟩

/-- Settles O21. -/
theorem everyCommandIsAnsweredOnce : Obligations.EveryCommandIsAnsweredOnce := by
  refine ⟨fun i s t h => ?_, rfl, rfl, rfl, rfl⟩
  obtain ⟨r, hr, hdata⟩ := exec_rsp h
  exact ⟨r, hr, hdata, word_status r, word_data r⟩

/-! ### Read commands -/

theorem exec_of_isReadOnly (hi : i.isReadOnly = true) (s : State) : exec i s = readCommand s (i.result s.rf s.px) := by
  cases i
  case rfNew | setA | setB | setC | setD | setE | setH | setL | setF | setBC | setDE | setHL | setAF | setSP | setPC | setZero |
      setSubtract | setHalfCarry | setCarry | setIme | setLcdc | setStat | pxRender => cases hi
  all_goals rfl

/-- Settles O15: a read command ends in a response without a port call, whether the instance is halted or not. -/
theorem readCommandsChangeNoState : Obligations.ReadCommandsChangeNoState := by
  intro i s hi
  rw [exec_of_isReadOnly hi, readCommand_eq]
  split
  · exact ⟨(s.respond .halted 0 []).out, rfl, rfl⟩
  · exact ⟨(s.respond .ok (i.result s.rf s.px) []).out, rfl, rfl⟩

end Sys2Proof.Machine
end

section
/-! The frames over all commands: which command changes which stored cell (10_state.md section 1), and which command depends on
which cell (00_scope.md section 1, 10_state.md sections 4 and 5). -/

namespace Sys2Proof

open Machine

/-! ### Cells and views that share no bit -/

/-- The pair view that holds a field (R23). -/
def FieldName.pair : FieldName → WideName
  | .a | .f => .af
  | .b | .c => .bc
  | .d | .e => .de
  | .h | .l => .hl

theorem FieldName.get_set_of_ne {m n : FieldName} (hmn : m ≠ n) (v : Byte) (rf : RegFile) : n.get (m.set v rf) = n.get rf := by
  cases m <;> cases n <;> simp [FieldName.get, FieldName.set, RegFile.f] at hmn ⊢

theorem WideName.get_set_of_ne {m n : WideName} (hmn : m ≠ n) (v : Half) (rf : RegFile) : n.get (m.set v rf) = n.get rf := by
  cases m <;> cases n <;>
    simp [WideName.get, WideName.set, RegFile.bc, RegFile.de, RegFile.hl, RegFile.af, RegFile.f] at hmn ⊢

theorem BitName.get_set_of_ne {m n : BitName} (hmn : m ≠ n) (v : Bit) (rf : RegFile) : n.get (m.set v rf) = n.get rf := by
  cases m <;> cases n <;> simp [BitName.get, BitName.set] at hmn ⊢

theorem FieldName.get_wide_set_of_ne {w : WideName} {n : FieldName} (hw : w ≠ n.pair) (v : Half) (rf : RegFile) :
    n.get (w.set v rf) = n.get rf := by
  cases w <;> cases n <;> simp [FieldName.pair, FieldName.get, WideName.set, RegFile.f] at hw ⊢

theorem FieldName.get_bit_set_of_ne_f {n : FieldName} (hn : n ≠ .f) (b : BitName) (v : Bit) (rf : RegFile) :
    n.get (b.set v rf) = n.get rf := by
  cases b <;> cases n <;> simp [FieldName.get, BitName.set] at hn ⊢

/-! ### The writers of the register file by their names -/

@[simp] theorem FieldName.rfAfter_setter (n : FieldName) (v : Byte) (rf : RegFile) : (n.setter v).rfAfter rf = n.set v rf := by
  cases n <;> rfl

@[simp] theorem WideName.rfAfter_setter (n : WideName) (v : Half) (rf : RegFile) : (n.setter v).rfAfter rf = n.set v rf := by
  cases n <;> rfl

@[simp] theorem BitName.rfAfter_setter (n : BitName) (v : Bit) (rf : RegFile) : (n.setter v).rfAfter rf = n.set v rf := by
  cases n <;> rfl

/-- An operation is RF.NEW, the `SET` of a name, or leaves the register file alone. -/
theorem rfAfter_cases (i : Instr) :
    i = .rfNew ∨ (∃ (n : FieldName) (v : Byte), i = n.setter v) ∨ (∃ (n : WideName) (v : Half), i = n.setter v) ∨
      (∃ (n : BitName) (v : Bit), i = n.setter v) ∨ ∀ rf, i.rfAfter rf = rf := by
  cases i
  case rfNew => exact .inl rfl
  case setA v => exact .inr (.inl ⟨.a, v, rfl⟩)
  case setB v => exact .inr (.inl ⟨.b, v, rfl⟩)
  case setC v => exact .inr (.inl ⟨.c, v, rfl⟩)
  case setD v => exact .inr (.inl ⟨.d, v, rfl⟩)
  case setE v => exact .inr (.inl ⟨.e, v, rfl⟩)
  case setH v => exact .inr (.inl ⟨.h, v, rfl⟩)
  case setL v => exact .inr (.inl ⟨.l, v, rfl⟩)
  case setF v => exact .inr (.inl ⟨.f, v, rfl⟩)
  case setBC v => exact .inr (.inr (.inl ⟨.bc, v, rfl⟩))
  case setDE v => exact .inr (.inr (.inl ⟨.de, v, rfl⟩))
  case setHL v => exact .inr (.inr (.inl ⟨.hl, v, rfl⟩))
  case setAF v => exact .inr (.inr (.inl ⟨.af, v, rfl⟩))
  case setSP v => exact .inr (.inr (.inl ⟨.sp, v, rfl⟩))
  case setPC v => exact .inr (.inr (.inl ⟨.pc, v, rfl⟩))
  case setZero v => exact .inr (.inr (.inr (.inl ⟨.zero, v, rfl⟩)))
  case setSubtract v => exact .inr (.inr (.inr (.inl ⟨.subtract, v, rfl⟩)))
  case setHalfCarry v => exact .inr (.inr (.inr (.inl ⟨.halfCarry, v, rfl⟩)))
  case setCarry v => exact .inr (.inr (.inr (.inl ⟨.carry, v, rfl⟩)))
  case setIme v => exact .inr (.inr (.inr (.inl ⟨.ime, v, rfl⟩)))
  all_goals exact .inr (.inr (.inr (.inr fun _ => rfl)))

end Sys2Proof

namespace Sys2Proof.Machine

variable {i : Instr} {s t : State}

/-- What every `SET` other than RF.NEW keeps of the register file, every command but RF.NEW keeps. -/
theorem exec_keeps {α : Type} (g : RegFile → α) (h : exec i s = .next t) (hNew : i ≠ .rfNew)
    (hField : ∀ (n : FieldName) v, i = n.setter v → g (n.set v s.rf) = g s.rf)
    (hWide : ∀ (n : WideName) v, i = n.setter v → g (n.set v s.rf) = g s.rf)
    (hBit : ∀ (n : BitName) v, i = n.setter v → g (n.set v s.rf) = g s.rf) : g t.rf = g s.rf := by
  rw [exec_rf h]
  split
  · rfl
  · rcases rfAfter_cases i with hi | ⟨n, v, hi⟩ | ⟨n, v, hi⟩ | ⟨n, v, hi⟩ | hi
    · exact absurd hi hNew
    · rw [hi, FieldName.rfAfter_setter, hField n v hi]
    · rw [hi, WideName.rfAfter_setter, hWide n v hi]
    · rw [hi, BitName.rfAfter_setter, hBit n v hi]
    · rw [hi]

section
variable (h : exec i s = .next t) (hNew : i ≠ .rfNew)
include h hNew

/-- A field other than the packed `f` is written by its own `SET`, by that of its pair and by RF.NEW. -/
theorem exec_keeps_field (n : FieldName) (hn : n ≠ .f) (hOwn : ∀ v, i ≠ n.setter v) (hPair : ∀ v, i ≠ n.pair.setter v) :
    n.get t.rf = n.get s.rf := by
  refine exec_keeps n.get h hNew (fun m v hi => ?_) (fun w v hi => ?_) (fun b v _ => ?_)
  · exact FieldName.get_set_of_ne (by rintro rfl; exact hOwn v hi) v s.rf
  · exact FieldName.get_wide_set_of_ne (by rintro rfl; exact hPair v hi) v s.rf
  · exact FieldName.get_bit_set_of_ne_f hn b v s.rf

theorem exec_keeps_sp (hOwn : ∀ v, i ≠ .setSP v) : t.rf.sp = s.rf.sp := by
  refine exec_keeps RegFile.sp h hNew (fun m v _ => ?_) (fun w v hi => ?_) (fun b v _ => ?_)
  · cases m <;> rfl
  · exact WideName.get_set_of_ne (n := .sp) (by rintro rfl; exact hOwn v hi) v s.rf
  · cases b <;> rfl

theorem exec_keeps_pc (hOwn : ∀ v, i ≠ .setPC v) : t.rf.pc = s.rf.pc := by
  refine exec_keeps RegFile.pc h hNew (fun m v _ => ?_) (fun w v hi => ?_) (fun b v _ => ?_)
  · cases m <;> rfl
  · exact WideName.get_set_of_ne (n := .pc) (by rintro rfl; exact hOwn v hi) v s.rf
  · cases b <;> rfl

theorem exec_keeps_ime (hOwn : ∀ v, i ≠ .setIme v) : t.rf.ime = s.rf.ime := by
  refine exec_keeps RegFile.ime h hNew (fun m v _ => ?_) (fun w v _ => ?_) (fun b v hi => ?_)
  · cases m <;> rfl
  · cases w <;> rfl
  · exact BitName.get_set_of_ne (n := .ime) (by rintro rfl; exact hOwn v hi) v s.rf

end

/-- What the `SET` of a control byte keeps, every command keeps. -/
theorem exec_keeps_px {α : Type} (g : PixelDecoder → α) (h : exec i s = .next t)
    (hLcdc : ∀ v, i = .setLcdc v → g { s.px with lcdc := v } = g s.px)
    (hStat : ∀ v, i = .setStat v → g { s.px with stat := v } = g s.px) : g t.px = g s.px := by
  rw [exec_px h]
  split
  · rfl
  · cases i
    case setLcdc v => exact hLcdc v rfl
    case setStat v => exact hStat v rfl
    all_goals rfl

/-- Settles O14: the frame of each cell of the register file, the flags' from `exec_keeps_flag`, and those of the pixel decoder. -/
theorem storedCellsChangeOnlyByTheirWriters : Obligations.StoredCellsChangeOnlyByTheirWriters := by
  intro i s t h
  refine ⟨fun hNew => ⟨?a, ?b, ?c, ?d, ?e, ?h, ?l, ?sp, ?pc, ?ime, fun hF hAF => ⟨?zero, ?subtract, ?halfCarry, ?carry⟩⟩,
    ?lcdc, ?stat, ?headless, fun hi => exec_keeps_halted hi h⟩
  case a => exact exec_keeps_field h hNew .a (by decide)
  case b => exact exec_keeps_field h hNew .b (by decide)
  case c => exact exec_keeps_field h hNew .c (by decide)
  case d => exact exec_keeps_field h hNew .d (by decide)
  case e => exact exec_keeps_field h hNew .e (by decide)
  case h => exact exec_keeps_field h hNew .h (by decide)
  case l => exact exec_keeps_field h hNew .l (by decide)
  case sp => exact exec_keeps_sp h hNew
  case pc => exact exec_keeps_pc h hNew
  case ime => exact exec_keeps_ime h hNew
  case zero => exact exec_keeps_flag .zero h hNew hF hAF
  case subtract => exact exec_keeps_flag .subtract h hNew hF hAF
  case halfCarry => exact exec_keeps_flag .halfCarry h hNew hF hAF
  case carry => exact exec_keeps_flag .carry h hNew hF hAF
  case lcdc => exact fun hOwn => exec_keeps_px PixelDecoder.lcdc h (fun v hi => absurd hi (hOwn v)) (fun _ _ => rfl)
  case stat => exact fun hOwn => exec_keeps_px PixelDecoder.stat h (fun _ _ => rfl) (fun v hi => absurd hi (hOwn v))
  case headless => exact exec_keeps_px PixelDecoder.headless h (fun _ _ => rfl) (fun _ _ => rfl)

/-! ### Commands that do not depend on a cell -/

/-- A render does the same whatever the register file holds. -/
theorem exec_pxRender_withRf (h : exec .pxRender s = .next t) (rf : RegFile) :
    exec .pxRender { s with rf := rf } = .next { t with rf := rf } := by
  rcases execPxRender_next h with ⟨hs, rfl⟩ | ⟨hs, hh, rfl⟩ | ⟨hs, hh, hok, rfl⟩ | ⟨hs, hh, herr, rfl⟩
  · exact exec_halted (s := { s with rf := rf }) _ hs
  · exact exec_pxRender_headless (s := { s with rf := rf }) hs hh
  · exact exec_pxRender_ok (s := { s with rf := rf }) hs hh hok
  · exact exec_pxRender_err (s := { s with rf := rf }) hs hh herr

/-- A command whose answer is that of another register file does the same from it, outside the register file. -/
theorem exec_withRf (h : exec i s = .next t) (rf : RegFile) (hres : i.result rf s.px = i.result s.rf s.px) :
    exec i { s with rf := rf } = .next { t with rf := if s.halted then rf else i.rfAfter rf } := by
  by_cases hi : i = .pxRender
  · subst hi
    rw [exec_pxRender_withRf h]
    split <;> rfl
  · rw [exec_eq_of_ne_pxRender hi] at h ⊢
    rcases whenRunning_next h with ⟨hs, rfl⟩ | ⟨hs, ht⟩
    · rw [if_pos hs]
      exact whenRunning_halted (s := { s with rf := rf }) _ hs
    · cases ht
      rw [if_neg (ne_true_of_eq_false hs), ← hres]
      exact whenRunning_running (s := { s with rf := rf }) _ hs

/-- A command other than a render whose answer is that of another pixel decoder does the same from it and in another
environment. -/
theorem exec_withPx (h : exec i s = .next t) (hi : i ≠ .pxRender) (px : PixelDecoder) (env : Environment)
    (hres : i.result s.rf px = i.result s.rf s.px) :
    exec i { s with px := px, env := env } =
      .next { t with px := if s.halted then px else i.pxAfter px, env := env } := by
  rw [exec_eq_of_ne_pxRender hi] at h ⊢
  rcases whenRunning_next h with ⟨hs, rfl⟩ | ⟨hs, ht⟩
  · rw [if_pos hs]
    exact whenRunning_halted (s := { s with px := px, env := env }) _ hs
  · cases ht
    rw [if_neg (ne_true_of_eq_false hs), ← hres]
    exact whenRunning_running (s := { s with px := px, env := env }) _ hs

/-! ### The two parts of the block (R2) -/

section
variable (hi : i.isPixel = false)
include hi

theorem ne_pxRender_of_regFile : i ≠ .pxRender := by
  rintro rfl
  cases hi

theorem pxAfter_of_regFile (px : PixelDecoder) : i.pxAfter px = px := by
  cases i
  case setLcdc | setStat => cases hi
  all_goals rfl

theorem result_of_regFile (rf : RegFile) (px px' : PixelDecoder) : i.result rf px = i.result rf px' := by
  cases i
  case getLcdc | getStat | pxTaddr => cases hi
  all_goals rfl

end

section
variable (hi : i.isPixel = true)
include hi

theorem rfAfter_of_pixel (rf : RegFile) : i.rfAfter rf = rf := by
  rcases rfAfter_cases i with rfl | ⟨n, v, rfl⟩ | ⟨n, v, rfl⟩ | ⟨n, v, rfl⟩ | h
  · cases hi
  · cases n <;> cases hi
  · cases n <;> cases hi
  · cases n <;> cases hi
  · exact h rf

theorem result_of_pixel (rf rf' : RegFile) (px : PixelDecoder) : i.result rf px = i.result rf' px := by
  cases i
  case getLcdc | getStat | setLcdc | setStat | pxIlv | pxTaddr | pxPal | pxRender => rfl
  all_goals cases hi

end

/-- Settles O18: the operations of one part neither write the other part nor take their answer from it. -/
theorem registerFileAndPixelDecoderAreIndependent : Obligations.RegisterFileAndPixelDecoderAreIndependent := by
  intro i s t h
  refine ⟨fun hi => ⟨?_, ?_, fun px env => ?_⟩, fun hi => ⟨?_, fun rf => ?_⟩⟩
  · rw [exec_px h, pxAfter_of_regFile hi, ite_self]
  · exact onlyRenderTouchesPorts i s t h (.inl (ne_pxRender_of_regFile hi))
  · rw [exec_withPx h (ne_pxRender_of_regFile hi) px env (result_of_regFile hi _ _ _), pxAfter_of_regFile hi, ite_self]
  · rw [exec_rf h, rfAfter_of_pixel hi, ite_self]
  · rw [exec_withRf h rf (result_of_pixel hi _ _ _), rfAfter_of_pixel hi, ite_self]

/-! ### The cells without behaviour (R27 to R29, R31) -/

theorem rfAfter_withSp (i : Instr) (rf : RegFile) (v : Half) :
    i.rfAfter { rf with sp := v } = { i.rfAfter rf with sp := (i.rfAfter { rf with sp := v }).sp } := by
  cases i <;> rfl

theorem rfAfter_withPc (i : Instr) (rf : RegFile) (v : Half) :
    i.rfAfter { rf with pc := v } = { i.rfAfter rf with pc := (i.rfAfter { rf with pc := v }).pc } := by
  cases i <;> rfl

theorem rfAfter_withIme (i : Instr) (rf : RegFile) (v : Bit) :
    i.rfAfter { rf with ime := v } = { i.rfAfter rf with ime := (i.rfAfter { rf with ime := v }).ime } := by
  cases i <;> rfl

theorem pxAfter_withStat (i : Instr) (px : PixelDecoder) (v : Byte) :
    i.pxAfter { px with stat := v } = { i.pxAfter px with stat := (i.pxAfter { px with stat := v }).stat } := by
  cases i <;> rfl

theorem result_withSp (hi : i ≠ .getSP) (rf : RegFile) (px : PixelDecoder) (v : Half) :
    i.result { rf with sp := v } px = i.result rf px := by
  cases i
  case getSP => exact absurd rfl hi
  all_goals rfl

theorem result_withPc (hi : i ≠ .getPC) (rf : RegFile) (px : PixelDecoder) (v : Half) :
    i.result { rf with pc := v } px = i.result rf px := by
  cases i
  case getPC => exact absurd rfl hi
  all_goals rfl

theorem result_withIme (hi : i ≠ .getIme) (rf : RegFile) (px : PixelDecoder) (v : Bit) :
    i.result { rf with ime := v } px = i.result rf px := by
  cases i
  case getIme => exact absurd rfl hi
  all_goals rfl

theorem result_withStat (hi : i ≠ .getStat) (rf : RegFile) (px : PixelDecoder) (v : Byte) :
    i.result rf { px with stat := v } = i.result rf px := by
  cases i
  case getStat => exact absurd rfl hi
  all_goals rfl

/-- A render does the same whatever `stat` holds. -/
theorem exec_pxRender_withStat (h : exec .pxRender s = .next t) (v : Byte) :
    exec .pxRender { s with px.stat := v } = .next { t with px.stat := v } := by
  rcases execPxRender_next h with ⟨hs, rfl⟩ | ⟨hs, hh, rfl⟩ | ⟨hs, hh, hok, rfl⟩ | ⟨hs, hh, herr, rfl⟩
  · exact exec_halted (s := { s with px.stat := v }) _ hs
  · exact exec_pxRender_headless (s := { s with px.stat := v }) hs hh
  · exact exec_pxRender_ok (s := { s with px.stat := v }) hs hh hok
  · exact exec_pxRender_err (s := { s with px.stat := v }) hs hh herr

/-- A cell of the register file that an operation passes through but does not answer gates nothing; `put` and `get` write and
read the cell. -/
theorem exec_gates_nothing {α : Type} {put : α → RegFile → RegFile} {get : RegFile → α} (h : exec i s = .next t) (v : α)
    (hres : i.result (put v s.rf) s.px = i.result s.rf s.px)
    (hafter : i.rfAfter (put v s.rf) = put (get (i.rfAfter (put v s.rf))) (i.rfAfter s.rf)) :
    ∃ v', exec i { s with rf := put v s.rf } = .next { t with rf := put v' t.rf } := by
  rw [exec_withRf h _ hres, exec_rf h]
  split
  · exact ⟨v, rfl⟩
  · exact ⟨_, by rw [← hafter]⟩

/-- Settles O19: each cell is passed through by every operation and answered by its own `GET` alone. -/
theorem storedCellsWithoutBehaviourGateNothing : Obligations.StoredCellsWithoutBehaviourGateNothing := by
  intro i s t h
  refine ⟨fun hi v => ?sp, fun hi v => ?pc, fun hi v => ?ime, fun hi v => ?stat⟩
  case sp =>
    exact exec_gates_nothing (put := fun v rf => { rf with sp := v }) h v (result_withSp hi _ _ v) (rfAfter_withSp i _ v)
  case pc =>
    exact exec_gates_nothing (put := fun v rf => { rf with pc := v }) h v (result_withPc hi _ _ v) (rfAfter_withPc i _ v)
  case ime =>
    exact exec_gates_nothing (put := fun v rf => { rf with ime := v }) h v (result_withIme hi _ _ v) (rfAfter_withIme i _ v)
  case stat =>
    by_cases hr : i = .pxRender
    · subst hr
      exact ⟨v, exec_pxRender_withStat h v⟩
    · have hstat : exec i { s with px.stat := v } = _ := exec_withPx h hr _ s.env (result_withStat hi _ _ v)
      rw [hstat, exec_px h, exec_env h]
      split
      · exact ⟨v, rfl⟩
      · exact ⟨_, by rw [pxAfter_withStat]⟩

end Sys2Proof.Machine
end

section
/-! What one step does, by the next input (70_reset_and_hazards.md R296), and what every run keeps. -/

namespace Sys2Proof.Machine

/-! ### One rule per input -/

section
variable {s : State} {rest : List Input}

theorem step_idle (h : s.env.inputs = []) : step s = .next s.quiet := by
  simp [step, h]

theorem step_command {w : Command} {i : Instr} (h : s.env.inputs = .command w :: rest) (hw : decode w = .ok i) :
    step s = exec i { s with env.inputs := rest } := by
  simp [step, acceptInput_cons h, hw]

theorem step_rejected {w : Command} {e : DecodeError} (h : s.env.inputs = .command w :: rest) (hw : decode w = .error e) :
    step s = illegalOp { s with env.inputs := rest } := by
  simp [step, acceptInput_cons h, hw]

theorem step_reset {headless surfaceOk : Bool} (h : s.env.inputs = .reset headless surfaceOk :: rest) :
    step s = .next (resetBlock headless surfaceOk { s with env.inputs := rest }) := by
  simp [step, acceptInput_cons h]

theorem step_memory {addr : Half} {v : Byte} (h : s.env.inputs = .memory addr v :: rest) :
    step s = .next (changeMemory addr v { s with env.inputs := rest }) := by
  simp [step, acceptInput_cons h]

theorem step_tile {offset : CellOffset} {v : Byte} (h : s.env.inputs = .tile offset v :: rest) :
    step s = .next (changeTile offset v { s with env.inputs := rest }) := by
  simp [step, acceptInput_cons h]

theorem step_surface {a : PresentAnswer} (h : s.env.inputs = .surface a :: rest) :
    step s = .next (changeSurface a { s with env.inputs := rest }) := by
  simp [step, acceptInput_cons h]

/-- A halted instance gives every command word, reserved ones included, one answer (R244, R247). -/
theorem step_command_halted {w : Command} (hs : s.halted = true) (h : s.env.inputs = .command w :: rest) :
    step s = .next (State.respond { s with env.inputs := rest } .halted 0 []) := by
  cases hw : decode w with
  | ok i => exact (step_command h hw).trans (exec_halted (s := { s with env.inputs := rest }) i hs)
  | error e => rw [step_rejected h hw, illegalOp_eq, if_pos hs]

/-- A step that performs a command, reserved ones included, only takes the word from the environment. -/
theorem env_of_step_command {t : State} {w : Command} (h : s.env.inputs = .command w :: rest) (ht : step s = .next t) :
    t.env = { s.env with inputs := rest } := by
  cases hw : decode w with
  | ok i => rw [step_command h hw] at ht; exact exec_env ht
  | error e => rw [step_rejected h hw, illegalOp_eq] at ht; cases ht; rfl

end

/-- A reset assigns every cell of the block, whatever they held (R270). -/
theorem resetBlock_eq (headless surfaceOk : Bool) (s : State) :
    resetBlock headless surfaceOk s = { State.resetWith headless surfaceOk with env := s.env } := by
  cases headless <;> cases surfaceOk <;> rfl

/-! ### The obligations about one step -/

/-- Settles O45. -/
theorem stepRunsTheDecodedCommand : Obligations.StepRunsTheDecodedCommand :=
  fun _ _ _ _ h hw => step_command h hw

/-- Settles O39. -/
theorem haltedInstanceAnswersHaltedOnly : Obligations.HaltedInstanceAnswersHaltedOnly :=
  ⟨fun i _ hs => exec_halted i hs, fun _ _ _ hs h => step_command_halted hs h⟩

/-- Settles O42: both forms of the next state are the reset state in the environment that was there. -/
theorem resetAssignsEveryCell : Obligations.ResetAssignsEveryCell := by
  intro s headless surfaceOk rest h
  rw [step_reset h, resetBlock_eq]
  exact ⟨rfl, rfl⟩

/-- Settles O43: the decoder's table has the reserved opcodes of R89 as its gaps, which are counted here. -/
theorem reservedOpcodesAreAnsweredIllegal : Obligations.ReservedOpcodesAreAnsweredIllegal := by
  refine ⟨decode_append_eq_error_iff, rfl, fun s op arg rest h hop hs => ?_⟩
  rw [step_rejected h ((decode_append_eq_error_iff op arg).mpr hop), illegalOp_eq, if_neg (ne_true_of_eq_false hs)]
  rfl

/-- Settles O44: every input but a command is answered at once; of the commands only the hanging render is not, and its word carries
the opcode of PX.RENDER. -/
theorem everyStepAnswersUnlessPresentHangs : Obligations.EveryStepAnswersUnlessPresentHangs := by
  intro s
  rcases step_cases s with ⟨-, hstep⟩ | ⟨w, rest, i, hin, hw, hstep⟩ | ⟨w, rest, e, -, -, hstep⟩ | ⟨_, _, _, -, hstep⟩ |
    ⟨_, _, _, -, hstep⟩ | ⟨_, _, _, -, hstep⟩ | ⟨_, _, -, hstep⟩
  case inr.inl =>
    rw [hstep]
    by_cases hhang : i = .pxRender ∧ s.halted = false ∧ s.px.headless = false ∧ s.env.surface = .never
    · obtain ⟨rfl, hs, hh, hsurf⟩ := hhang
      have hop : opField w = 0x8F := opField_of_decode hw
      refine .inr ⟨exec_pxRender_never hs hh hsurf, hs, hh, hsurf, argField w, rest, ?_⟩
      rw [hin, ← hop, opField_append_argField]
    · exact .inl (exec_answers hhang)
  case inr.inr.inl => exact .inl ⟨_, hstep.trans (illegalOp_eq _)⟩
  all_goals exact .inl ⟨_, hstep⟩

/-! ### The obligations about runs -/

/-- Every step takes the oldest input. -/
theorem step_inputs {s t : State} (h : step s = .next t) : t.env.inputs = s.env.inputs.tail := by
  rcases step_cases s with ⟨hin, hstep⟩ | ⟨w, rest, i, hin, -, hstep⟩ | ⟨w, rest, e, hin, -, hstep⟩ | ⟨_, _, _, hin, hstep⟩ |
    ⟨_, _, _, hin, hstep⟩ | ⟨_, _, _, hin, hstep⟩ | ⟨_, _, hin, hstep⟩ <;> rw [hstep] at h
  case inr.inl => rw [exec_env h, hin]; rfl
  case inr.inr.inl => rw [illegalOp_eq] at h; cases h; rw [hin]; rfl
  all_goals cases h; simp [hin]

theorem step_keeps_noResetPending {s t : State} (h : step s = .next t) (hs : s.noResetPending) : t.noResetPending := by
  intro headless surfaceOk hmem
  rw [step_inputs h] at hmem
  exact hs headless surfaceOk (List.mem_of_mem_tail hmem)

/-- A property that every step keeps as long as no reset is pending holds along every such run. -/
theorem reaches_keeps {s t : State} {p : State → Prop} (hst : Reaches s t) (hno : s.noResetPending) (hp : p s)
    (hstep : ∀ u v, u.noResetPending → p u → step u = .next v → p v) : p t := by
  suffices h : t.noResetPending ∧ p t from h.2
  induction hst with
  | refl => exact ⟨hno, hp⟩
  | step _ hu ih =>
    obtain ⟨hnoPrev, hpPrev⟩ := ih
    exact ⟨step_keeps_noResetPending hu hnoPrev, hstep _ _ hnoPrev hpPrev hu⟩

/-- Without a reset only the commands touch the block's cells. -/
theorem step_block_of_noResetPending {s t : State} (hno : s.noResetPending) (h : step s = .next t) :
    (t.rf = s.rf ∧ t.px = s.px ∧ t.halted = s.halted) ∨ ∃ i rest, exec i { s with env.inputs := rest } = .next t := by
  rcases step_cases s with ⟨-, hstep⟩ | ⟨w, rest, i, -, -, hstep⟩ | ⟨w, rest, e, -, -, hstep⟩ | ⟨_, _, _, hin, -⟩ |
    ⟨_, _, _, -, hstep⟩ | ⟨_, _, _, -, hstep⟩ | ⟨_, _, -, hstep⟩
  case inr.inl => exact .inr ⟨i, rest, hstep ▸ h⟩
  case inr.inr.inr.inl => exact absurd (hin ▸ List.mem_cons_self) (hno _ _)
  case inr.inr.inl => rw [hstep, illegalOp_eq] at h; cases h; exact .inl ⟨rfl, rfl, rfl⟩
  all_goals rw [hstep] at h; cases h; exact .inl ⟨rfl, rfl, rfl⟩

/-- Settles O40: a halted instance refuses every command. -/
theorem haltedIsLeftByResetOnly : Obligations.HaltedIsLeftByResetOnly := by
  intro s t hst hs hno
  refine reaches_keeps (p := fun u => u.halted = true ∧ u.rf = s.rf ∧ u.px = s.px) hst hno ⟨hs, rfl, rfl⟩ ?_
  rintro u v hnoU ⟨hu, hrf, hpx⟩ huv
  rcases step_block_of_noResetPending hnoU huv with ⟨hrf', hpx', hu'⟩ | ⟨i, rest, hexec⟩
  · exact ⟨hu' ▸ hu, hrf' ▸ hrf, hpx' ▸ hpx⟩
  · cases hexec.symm.trans (exec_halted (s := { u with env.inputs := rest }) i hu)
    exact ⟨hu, hrf, hpx⟩

/-- Settles O41: no command writes `headless`. -/
theorem headlessIsConstantUntilReset : Obligations.HeadlessIsConstantUntilReset := by
  intro s t hst hno
  refine reaches_keeps (p := fun u => u.px.headless = s.px.headless) hst hno rfl fun u v hnoU hu huv => ?_
  rcases step_block_of_noResetPending hnoU huv with ⟨-, hpx, -⟩ | ⟨i, rest, hexec⟩
  · rw [hpx, hu]
  · exact (exec_keeps_px PixelDecoder.headless hexec (fun _ _ => rfl) (fun _ _ => rfl)).trans hu

end Sys2Proof.Machine
end

section
/-! The read ports and their stores (20_memory.md sections 2 and 3): who changes them, that every step keeps the canonical form of
log entries 5 and 6, and that the form is one. -/

namespace Sys2Proof.Machine

/-! ### Reads depend on the environment only -/

theorem memByte_congr {s t : State} (h : t.env.mem = s.env.mem) (addr : Half) : t.memByte addr = s.memByte addr := by
  unfold State.memByte
  rw [h]

theorem tileIndex_congr {s t : State} (h : t.env.tiles = s.env.tiles) (offset : CellOffset) :
    t.tileIndex offset = s.tileIndex offset := by
  unfold State.tileIndex
  rw [h]

/-- Settles O16: a command leaves the environment, and a step with a command or a reset all of it but the pending inputs. -/
theorem noCommandWritesMemory : Obligations.NoCommandWritesMemory := by
  refine ⟨fun i s t h => ?command, fun s t rest hin hstep => ?step⟩
  case command =>
    have henv : t.env = s.env := exec_env h
    exact ⟨memByte_congr (by rw [henv]), tileIndex_congr (by rw [henv]), henv⟩
  case step =>
    have henv : t.env = { s.env with inputs := rest } := by
      rcases hin with ⟨w, hin⟩ | ⟨headless, surfaceOk, hin⟩
      · exact env_of_step_command hin hstep
      · rw [step_reset hin] at hstep
        cases hstep
        exact resetBlock_env _ _ _
    exact ⟨memByte_congr (by rw [henv]), tileIndex_congr (by rw [henv])⟩

/-! ### The canonical form along steps -/

theorem storesCanonical_iff (s : State) :
    s.storesCanonical = true ↔ Memory.wf memBase 65536 s.env.mem = true ∧ Memory.wf tileBase 1024 s.env.tiles = true := by
  simp [State.storesCanonical]

/-- Settles O48: nothing is listed. -/
theorem resetStoresAreCanonical : Obligations.ResetStoresAreCanonical := fun _ _ => rfl

/-- Settles O47: a memory or tile input writes one entry, which `Memory.wf_write` covers; every other input leaves both stores. -/
theorem stepKeepsStoresCanonical : Obligations.StepKeepsStoresCanonical := by
  intro s t hs h
  rw [storesCanonical_iff] at hs ⊢
  obtain ⟨hmem, htiles⟩ := hs
  rcases step_cases s with ⟨-, hstep⟩ | ⟨w, rest, i, hin, -, -⟩ | ⟨w, rest, e, hin, -, -⟩ | ⟨_, _, _, -, hstep⟩ |
    ⟨addr, v, _, -, hstep⟩ | ⟨offset, v, _, -, hstep⟩ | ⟨_, _, -, hstep⟩
  case inr.inl | inr.inr.inl =>
    rw [env_of_step_command hin h]
    exact ⟨hmem, htiles⟩
  all_goals
    rw [hstep] at h
    cases h
  case inr.inr.inr.inr.inl => exact ⟨Memory.wf_write v hmem addr.isLt, htiles⟩
  case inr.inr.inr.inr.inr.inl => exact ⟨hmem, Memory.wf_write v htiles offset.isLt⟩
  case inr.inr.inr.inl =>
    rw [resetBlock_env]
    exact ⟨hmem, htiles⟩
  all_goals exact ⟨hmem, htiles⟩

/-- Settles O46: what each input of the environment does to its own part, by the laws of the stores. -/
theorem environmentInputsChangeTheEnvironmentOnly : Obligations.EnvironmentInputsChangeTheEnvironmentOnly := by
  refine ⟨fun s h => step_idle h, fun s a rest h => step_surface h, fun s addr v rest hs h => ?memory,
    fun s offset v rest hs h => ?tile⟩
  all_goals obtain ⟨hmem, htiles⟩ := (storesCanonical_iff s).mp hs
  case memory =>
    refine ⟨_, step_memory h, Memory.read_write_same v hmem, fun a ha => ?_, rfl, rfl, rfl, rfl, rfl, rfl⟩
    exact Memory.read_write_other v (fun e => ha (BitVec.eq_of_toNat_eq e)) hmem
  case tile =>
    refine ⟨_, step_tile h, Memory.read_write_same v htiles, fun o ho => ?_, rfl, rfl, rfl, rfl, rfl, rfl⟩
    exact Memory.read_write_other v (fun e => ho (BitVec.eq_of_toNat_eq e)) htiles

/-! ### The canonical form is one -/

section
variable {base : Nat → Byte} {size : Nat}

/-- Keys strictly rise in the canonical form. -/
theorem Memory.pairwise_of_wf {m : Memory} (h : Memory.wf base size m = true) : m.Pairwise (fun c d => c.1 < d.1) := by
  induction m with
  | nil => exact List.Pairwise.nil
  | cons c m ih =>
    obtain ⟨-, -, hlt, hwf⟩ := Memory.wf_cons.1 h
    exact List.Pairwise.cons hlt (ih hwf)

/-- What is listed in the canonical form is what does not read as unlisted. -/
theorem Memory.mem_iff_of_wf {m : Memory} (h : Memory.wf base size m = true) (c : Host.Cell) :
    c ∈ m ↔ c.1 < size ∧ c.2 ≠ base c.1 ∧ Memory.read base m c.1 = c.2 := by
  induction m with
  | nil => simp [Memory.read_nil, eq_comm]
  | cons d m ih =>
    obtain ⟨hd, hne, hlt, hwf⟩ := Memory.wf_cons.1 h
    rw [List.mem_cons, ih hwf, Memory.read_cons]
    by_cases hk : d.1 = c.1
    · have hout : Memory.read base m c.1 = base c.1 := Memory.read_of_lt (hk ▸ hlt)
      rw [if_pos hk, hout]
      constructor
      · rintro (rfl | ⟨-, hc, hb⟩)
        · exact ⟨hd, hne, rfl⟩
        · exact absurd hb.symm hc
      · rintro ⟨-, -, hv⟩
        exact .inl (Prod.ext hk.symm hv.symm)
    · have hcd : c ≠ d := fun e => hk (by rw [e])
      rw [if_neg hk, or_iff_right hcd]

/-- Canonical stores that read alike are equal. -/
theorem Memory.eq_of_read_eq {m m' : Memory} (h : Memory.wf base size m = true) (h' : Memory.wf base size m' = true)
    (hread : ∀ k < size, Memory.read base m k = Memory.read base m' k) : m = m' := by
  have hmem : ∀ c, c ∈ m ↔ c ∈ m' := fun c => by
    rw [Memory.mem_iff_of_wf h, Memory.mem_iff_of_wf h']
    exact and_congr_right fun hk => by rw [hread c.1 hk]
  have hsorted := Memory.pairwise_of_wf h
  have hsorted' := Memory.pairwise_of_wf h'
  have hnodup {l : Memory} (hl : l.Pairwise (fun c d => c.1 < d.1)) : l.Nodup := hl.imp fun hlt e => by simp [e] at hlt
  have hperm : m.Perm m' := (List.perm_ext_iff_of_nodup (hnodup hsorted) (hnodup hsorted')).2 hmem
  exact hperm.eq_of_pairwise (fun c d _ _ hcd hdc => absurd hcd hdc.not_gt) hsorted hsorted'

end

/-- Settles O49: each store is determined by its reads, and every key in range is an address or a cell. -/
theorem canonicalStoresAreEqualData : Obligations.CanonicalStoresAreEqualData := by
  intro s t hs ht hmem htile
  obtain ⟨hsm, hst⟩ := (storesCanonical_iff s).mp hs
  obtain ⟨htm, htt⟩ := (storesCanonical_iff t).mp ht
  constructor
  · exact Memory.eq_of_read_eq hsm htm fun k hk => by simpa [State.memByte, Nat.mod_eq_of_lt hk] using hmem (BitVec.ofNat 16 k)
  · exact Memory.eq_of_read_eq hst htt fun k hk => by simpa [State.tileIndex, Nat.mod_eq_of_lt hk] using htile (BitVec.ofNat 10 k)

end Sys2Proof.Machine
end

section
/-! The snapshot of R33 and R101, the round trips of the pair views and of the packed flag byte, and the debug port of R260. -/

namespace Sys2Proof

open Machine

/-! ### Pair views written back (41_pair_views.md section 4) -/

/-- Writing back what a wide read answers changes no cell. -/
theorem WideName.set_get (n : WideName) (rf : RegFile) : n.set (n.get rf) rf = rf := by
  cases n <;> simp [WideName.get, WideName.set, RegFile.bc, RegFile.de, RegFile.hl, RegFile.af, RegFile.f]

theorem WideName.exec_setter_get (n : WideName) {s t : State} (hs : s.halted = false)
    (h : exec (n.setter (n.get s.rf)) s = .next t) : t = s.respond .ok 0 [] := by
  rw [n.exec_setter, n.set_get, writeRegFile_running _ hs] at h
  cases h
  rfl

/-- A wide write leaves the other wide reads alone. -/
theorem WideName.get_of_exec_setter {m n : WideName} (hmn : m ≠ n) {s t : State} {v : Half}
    (h : exec (m.setter v) s = .next t) : n.get t.rf = n.get s.rf := by
  rw [m.exec_setter] at h
  rcases writeRegFile_rf h with ht | ht <;> rw [ht]
  exact WideName.get_set_of_ne hmn v s.rf

end Sys2Proof

namespace Sys2Proof.Machine

/-- Settles O8: `WideName.set_get` for each pair, and that pairs share no cell. -/
theorem pairViewsRoundTrip : Obligations.PairViewsRoundTrip := by
  refine ⟨fun rf => ?cells, fun s t hs h => ?command, fun s t v => ?others⟩
  case cells => exact ⟨WideName.bc.set_get rf, WideName.de.set_get rf, WideName.hl.set_get rf, WideName.af.set_get rf⟩
  case command =>
    rcases h with h | h | h | h
    · exact WideName.bc.exec_setter_get hs h
    · exact WideName.de.exec_setter_get hs h
    · exact WideName.hl.exec_setter_get hs h
    · exact WideName.af.exec_setter_get hs h
  case others =>
    have hkeep (m n : WideName) (hmn : m ≠ n) (h : exec (m.setter v) s = .next t) : n.get t.rf = n.get s.rf :=
      WideName.get_of_exec_setter hmn h
    exact ⟨fun h => ⟨hkeep .bc .de (by decide) h, hkeep .bc .hl (by decide) h, hkeep .bc .af (by decide) h⟩,
      fun h => ⟨hkeep .de .bc (by decide) h, hkeep .de .hl (by decide) h, hkeep .de .af (by decide) h⟩,
      fun h => ⟨hkeep .hl .bc (by decide) h, hkeep .hl .de (by decide) h, hkeep .hl .af (by decide) h⟩,
      fun h => ⟨hkeep .af .bc (by decide) h, hkeep .af .de (by decide) h, hkeep .af .hl (by decide) h⟩⟩

/-! ### The packed flag byte (42_flags.md section 2) -/

theorem packFlags_injective : Function.Injective packFlags :=
  Function.LeftInverse.injective unpackFlags_packFlags

/-- Settles O10: packing and unpacking are inverse to one another on the bytes with a zero low nibble. -/
theorem packedFlagByteRoundTrip : Obligations.PackedFlagByteRoundTrip := by
  refine ⟨packFlags_unpackFlags, unpackFlags_packFlags, fun _ _ h => packFlags_injective h, fun v hv => ⟨unpackFlags v, ?_⟩,
    fun s v hs => setF_thenAnswers_getF hs v⟩
  calc packFlags (unpackFlags v)
    _ = v &&& ~~~0x0F := packFlags_unpackFlags v
    _ = v := and_not_eq_self hv

/-! ### The snapshot (R33) -/

/-- Settles O4: the snapshot replaces every cell of the register file, so a second one replaces it by itself. -/
theorem registerFileConstructionLoadsTheSnapshot : Obligations.RegisterFileConstructionLoadsTheSnapshot := by
  refine ⟨fun arg => decode_append_of_some rfl, fun s hs => writeRegFile_running _ hs, fun s t u hst htu => ?_⟩
  cases hs : s.halted with
  | true =>
    cases hst.symm.trans (exec_halted .rfNew hs)
    cases htu.symm.trans (exec_halted (s := s.respond .halted 0 []) .rfNew hs)
    rfl
  | false =>
    cases hst.symm.trans (writeRegFile_running _ hs)
    cases htu.symm.trans (writeRegFile_running (s := State.respond { s with rf := loadSnapshot s.rf } .ok 0 []) _ hs)
    rfl

/-- Settles O5: both ways end in one register file, whose views are computed. -/
theorem resetAndNewLeaveTheSnapshot : Obligations.ResetAndNewLeaveTheSnapshot := by
  intro s h
  have hrf : s.rf = State.reset.rf := by
    rcases h with ⟨headless, surfaceOk, rfl⟩ | ⟨r, hr, h⟩
    · rfl
    · rw [exec_rf h, if_neg (ne_true_of_eq_false hr)]
      rfl
  rw [hrf]
  decide

/-! ### The debug port (R260, R261) -/

/-- The fields of the debug value stand where R260 puts them. The widths stay sums (`-Nat.reduceAdd`), so that the rules for a part
of a concatenation apply. -/
theorem word_fields (t : DebugTuple) :
    t.word.extractLsb' 89 8 = t.a ∧ t.word.extractLsb' 81 8 = t.b ∧ t.word.extractLsb' 73 8 = t.c ∧
    t.word.extractLsb' 65 8 = t.d ∧ t.word.extractLsb' 57 8 = t.e ∧ t.word.extractLsb' 49 8 = t.h ∧
    t.word.extractLsb' 41 8 = t.l ∧ t.word.extractLsb' 33 8 = t.f ∧ t.word.extractLsb' 17 16 = t.sp ∧
    t.word.extractLsb' 1 16 = t.pc ∧ t.word.extractLsb' 0 1 = t.ime := by
  unfold DebugTuple.word
  simp [BitVec.extractLsb'_append_eq_of_le, BitVec.extractLsb'_append_eq_right, -Nat.reduceAdd]

/-- The register file a debug tuple shows. -/
def DebugTuple.regFile (t : DebugTuple) : RegFile :=
  { a := t.a, b := t.b, c := t.c, d := t.d, e := t.e, h := t.h, l := t.l, fl := unpackFlags t.f, sp := t.sp, pc := t.pc
    ime := t.ime }

@[simp] theorem regFile_debugPort (s : State) : s.debugPort.regFile = s.rf := by
  simp [DebugTuple.regFile, State.debugPort, RegFile.f]

/-- Settles O54: the tuple is a function of the register file, and the register file can be read off it. -/
theorem debugPortShowsTheRegisterFileOnly : Obligations.DebugPortShowsTheRegisterFileOnly := by
  refine ⟨fun s => word_fields s.debugPort, fun s t => ⟨fun h => ?_, fun h => ?_⟩⟩
  · unfold State.debugPort
    rw [h]
  · rw [← regFile_debugPort s, h, regFile_debugPort]

end Sys2Proof.Machine
end

section
/-! The control bytes and the pixel primitives of 43_pixel_primitives.md as commands, and the interleave as a bijection (R194). -/

namespace Sys2Proof.Machine

/-! ### The control bytes (R180 to R183) -/

section
variable {s : State} (hs : s.halted = false)
include hs

theorem writePixel_running (px : PixelDecoder) : writePixel s px = .next ({ s with px := px }.respond .ok 0 []) :=
  whenRunning_running _ hs

/-- A read after a pixel decoder write sees the written cells. -/
theorem thenAnswers_of_writePixel {i j : Instr} {px : PixelDecoder} {w : Word} (hi : exec i s = writePixel s px)
    (hj : ∀ t, exec j t = readCommand t (j.result t.rf t.px)) (hw : j.result s.rf px = w) : ThenAnswers i j s w :=
  hw ▸ ⟨_, hi.trans (writePixel_running hs px), answers_of_readCommand (hj _) hs⟩

end

theorem writesBy_of_writePixel {op : Byte} {mk : Byte → Instr} {set : Byte → PixelDecoder → PixelDecoder}
    (hd : ∀ arg : Half, decode (op ++ arg) = .ok (mk (formV8 arg))) (hi : ∀ v s, exec (mk v) s = writePixel s (set v s.px)) :
    WritesBy op mk formV8 (fun v s => { s with px := set v s.px }) :=
  ⟨hd, fun v s hs => (hi v s).trans (writePixel_running hs (set v s.px))⟩

/-- Settles O22: a read command and a pixel decoder write for each of the two bytes. -/
theorem controlBytesAreStored : Obligations.ControlBytesAreStored := by
  refine ⟨?getLcdc, ?getStat, ?setLcdc, ?setStat, fun s hs => ?readBack, fun headless surfaceOk hs => ?afterReset⟩
  case getLcdc => exact readsOnly_of_readCommand (fun _ => decode_append_of_some rfl) fun _ => rfl
  case getStat => exact readsOnly_of_readCommand (fun _ => decode_append_of_some rfl) fun _ => rfl
  case setLcdc =>
    exact writesBy_of_writePixel (set := fun v px => { px with lcdc := v }) (fun _ => decode_append_of_some rfl) fun _ _ => rfl
  case setStat =>
    exact writesBy_of_writePixel (set := fun v px => { px with stat := v }) (fun _ => decode_append_of_some rfl) fun _ _ => rfl
  case readBack =>
    exact ⟨thenAnswers_of_writePixel hs rfl (fun _ => rfl) rfl, thenAnswers_of_writePixel hs rfl (fun _ => rfl) rfl,
      thenAnswers_of_writePixel hs rfl (fun _ => rfl) (by decide : zext32 (tileAddr (addressingMode 0x10) 0x0000) = 0x8000)⟩
  case afterReset => exact ⟨answers_of_readCommand rfl hs, answers_of_readCommand rfl hs⟩

/-! ### The interleave, bit by bit (R192 to R194) -/

theorem interleave_getLsbD_one (hi lo : Byte) (i : Fin 8) : ((interleave hi lo)[i]).getLsbD 1 = hi.getLsbD (7 - i.val) := by
  rw [interleave_getElem, BitVec.getLsbD_append]
  simp

theorem interleave_getLsbD_zero (hi lo : Byte) (i : Fin 8) : ((interleave hi lo)[i]).getLsbD 0 = lo.getLsbD (7 - i.val) := by
  rw [interleave_getElem, BitVec.getLsbD_append]
  simp

/-- The byte of the upper bits of eight colour indices, leftmost pixel in bit 7. -/
def hiPlane (ix : Vector ColourIndex 8) : Byte := BitVec.ofFnLE fun k : Fin 8 => (ix[k.rev]).getLsbD 1

/-- The byte of the lower bits of eight colour indices, leftmost pixel in bit 7. -/
def loPlane (ix : Vector ColourIndex 8) : Byte := BitVec.ofFnLE fun k : Fin 8 => (ix[k.rev]).getLsbD 0

theorem hiPlane_getLsbD (ix : Vector ColourIndex 8) (i : Fin 8) : (hiPlane ix).getLsbD (7 - i.val) = (ix[i]).getLsbD 1 := by
  have hrev : (⟨7 - i.val, by omega⟩ : Fin 8).rev = i := by ext; simp only [Fin.val_rev]; omega
  rw [hiPlane, BitVec.getLsbD_ofFnLE, dif_pos (by omega)]
  exact congrArg (fun j : Fin 8 => (ix[j]).getLsbD 1) hrev

theorem loPlane_getLsbD (ix : Vector ColourIndex 8) (i : Fin 8) : (loPlane ix).getLsbD (7 - i.val) = (ix[i]).getLsbD 0 := by
  have hrev : (⟨7 - i.val, by omega⟩ : Fin 8).rev = i := by ext; simp only [Fin.val_rev]; omega
  rw [loPlane, BitVec.getLsbD_ofFnLE, dif_pos (by omega)]
  exact congrArg (fun j : Fin 8 => (ix[j]).getLsbD 0) hrev

theorem hiPlane_interleave (hi lo : Byte) : hiPlane (interleave hi lo) = hi := by
  refine BitVec.eq_of_getLsbD_eq fun k hk => ?_
  have hrev : 7 - (8 - (k + 1)) = k := by omega
  rw [hiPlane, BitVec.getLsbD_ofFnLE, dif_pos hk, interleave_getLsbD_one, Fin.val_rev, hrev]

theorem loPlane_interleave (hi lo : Byte) : loPlane (interleave hi lo) = lo := by
  refine BitVec.eq_of_getLsbD_eq fun k hk => ?_
  have hrev : 7 - (8 - (k + 1)) = k := by omega
  rw [loPlane, BitVec.getLsbD_ofFnLE, dif_pos hk, interleave_getLsbD_zero, Fin.val_rev, hrev]

theorem interleave_planes (ix : Vector ColourIndex 8) : interleave (hiPlane ix) (loPlane ix) = ix := by
  refine Vector.ext fun i hi => BitVec.eq_of_getLsbD_eq fun k hk => ?_
  obtain rfl | rfl : k = 0 ∨ k = 1 := by omega
  · exact (interleave_getLsbD_zero _ _ ⟨i, hi⟩).trans (loPlane_getLsbD ix ⟨i, hi⟩)
  · exact (interleave_getLsbD_one _ _ ⟨i, hi⟩).trans (hiPlane_getLsbD ix ⟨i, hi⟩)

/-- The packing of R193 keeps each index at its place. -/
theorem packIndices_getLsbD (ix : Vector ColourIndex 8) (i : Fin 8) :
    (packIndices ix).getLsbD (15 - 2 * i.val) = (ix[i]).getLsbD 1 ∧
    (packIndices ix).getLsbD (14 - 2 * i.val) = (ix[i]).getLsbD 0 := by
  simp only [packIndices, BitVec.getLsbD_append]
  fin_cases i <;> exact ⟨rfl, rfl⟩

theorem packIndices_interleave_getLsbD (hi lo : Byte) (i : Fin 8) :
    (packIndices (interleave hi lo)).getLsbD (15 - 2 * i.val) = hi.getLsbD (7 - i.val) ∧
    (packIndices (interleave hi lo)).getLsbD (14 - 2 * i.val) = lo.getLsbD (7 - i.val) := by
  rw [← interleave_getLsbD_one hi lo, ← interleave_getLsbD_zero hi lo]
  exact packIndices_getLsbD _ i

/-- Settles O24: the two planes are the inverse of the interleave. -/
theorem interleaveIsABijection : Obligations.InterleaveIsABijection := by
  refine ⟨fun hi lo i => Nat.le_of_lt_succ (BitVec.isLt _), fun hi lo hi' lo' h => ⟨?_, ?_⟩,
    fun ix => ⟨hiPlane ix, loPlane ix, interleave_planes ix⟩, packIndices_interleave_getLsbD⟩
  · rw [← hiPlane_interleave hi lo, h, hiPlane_interleave]
  · rw [← loPlane_interleave hi lo, h, loPlane_interleave]

/-! ### The pixel commands (R193, R198, R200) -/

/-- R9: the bits above the value are zero. -/
theorem zext32_extractLsb'_high (v : Half) : (zext32 v).extractLsb' 16 16 = 0 := by
  ext i hi
  simp [zext32]

theorem zext32_getLsbD {n : Nat} (v : BitVec n) {k : Nat} (hk : k < 32) : (zext32 v).getLsbD k = v.getLsbD k := by
  simp [zext32, hk]

/-- Settles O25: the shuffle is the packing counted from bit 0 up. -/
theorem interleaveCommandAnswersTheShuffle : Obligations.InterleaveCommandAnswersTheShuffle := by
  refine ⟨fun arg => decode_append_of_some rfl, fun hi lo s hs => ?_, fun s hs => ?_⟩
  · refine ⟨zext32 (packIndices (interleave hi lo)), readCommand_running _ hs, zext32_extractLsb'_high _, fun k => ?_⟩
    have hbits := packIndices_interleave_getLsbD hi lo k.rev
    have hhi : 15 - 2 * k.rev.val = 2 * k.val + 1 := by rw [Fin.val_rev]; omega
    have hlo : 14 - 2 * k.rev.val = 2 * k.val := by rw [Fin.val_rev]; omega
    have hk : 7 - k.rev.val = k.val := by rw [Fin.val_rev]; omega
    rw [hhi, hlo, hk] at hbits
    rwa [zext32_getLsbD _ (by omega), zext32_getLsbD _ (by omega)]
  · have hread {hi lo : Byte} {w : Word} (hw : zext32 (packIndices (interleave hi lo)) = w) : Answers (.pxIlv hi lo) s w :=
      hw ▸ answers_of_readCommand rfl hs
    exact ⟨hread (by decide), hread (by decide), hread (by decide)⟩

/-- R195: the mode is bit 4 of the control byte. -/
theorem addressingMode_eq (lcdc : Byte) : addressingMode lcdc = if lcdc.getLsbD 4 then 1 else 0 := by
  refine BitVec.eq_of_getLsbD_eq fun k hk => ?_
  obtain rfl : k = 0 := by omega
  rw [addressingMode, BitVec.getLsbD_extractLsb']
  cases lcdc.getLsbD 4 <;> rfl

theorem tileAddr_addressingMode (lcdc : Byte) (off : Half) :
    tileAddr (addressingMode lcdc) off = if lcdc.getLsbD 4 then (0x8000 : Half) + off else 0x9000 + off := by
  rw [addressingMode_eq]
  split <;> rfl

/-- Settles O27: the sum is that of `tileAddr` in the mode of bit 4. -/
theorem tileAddressCommandAddsTheBase : Obligations.TileAddressCommandAddsTheBase := by
  refine ⟨fun arg => decode_append_of_some rfl, fun off s hs => ?_, fun s hs => ⟨fun hlcdc => ?_, fun hlcdc => ?_⟩⟩
  · rw [← tileAddr_addressingMode]
    exact readCommand_running _ hs
  all_goals
    have hread {off : Half} {w : Word} (hw : zext32 (tileAddr (addressingMode s.px.lcdc) off) = w) : Answers (.pxTaddr off) s w :=
      hw ▸ answers_of_readCommand rfl hs
    rw [hlcdc] at hread
    exact ⟨hread (by decide), hread (by decide)⟩

/-- Settles O29. -/
theorem paletteCommandLooksTheIndexUp : Obligations.PaletteCommandLooksTheIndexUp :=
  ⟨fun _ => decode_append_of_some rfl, fun _ _ hs => readCommand_running _ hs⟩

/-! ### The tile address of an index (R197) -/

theorem tileAddrIdx_unsigned_toNat (idx : Byte) : (tileAddrIdx 1 idx).toNat = 0x8000 + idx.toNat := by
  have hidx := idx.isLt
  have haddr : tileAddrIdx 1 idx = 0x8000#16 + idx.setWidth 16 := rfl
  rw [haddr, BitVec.toNat_add, BitVec.toNat_setWidth, BitVec.toNat_ofNat]
  omega

/-- Indices from 0x80 count as negative. -/
theorem tileAddrIdx_signed_toNat (idx : Byte) :
    (tileAddrIdx 0 idx).toNat = if idx.toNat ≤ 0x7F then 0x9000 + idx.toNat else 0x8F00 + idx.toNat := by
  have hidx := idx.isLt
  have haddr : tileAddrIdx 0 idx = 0x9000#16 + idx.signExtend 16 := rfl
  have hsign : idx.msb = decide (0x80 ≤ idx.toNat) := BitVec.msb_eq_decide idx
  rw [haddr, BitVec.toNat_add, BitVec.toNat_signExtend, BitVec.toNat_setWidth, BitVec.toNat_ofNat, hsign]
  simp only [decide_eq_true_eq]
  split_ifs <;> omega

/-- Settles O28. -/
theorem tileAddressOfAnIndexIsExtendedNotScaled : Obligations.TileAddressOfAnIndexIsExtendedNotScaled := by
  refine fun idx => ⟨tileAddrIdx_unsigned_toNat idx, fun h => ?_, fun h => ?_, rfl, rfl⟩
  · rw [tileAddrIdx_signed_toNat, if_pos h]
  · rw [tileAddrIdx_signed_toNat, if_neg (by omega)]
    omega

end Sys2Proof.Machine
end

section
/-! The frame and the port calls of a render (44_render.md): the cells in ascending order, eight equal rows each, later writes over
earlier ones. -/

namespace Sys2Proof.Machine

/-! ### The cells and rows as one range -/

/-- Counting in rows of `b` is counting. -/
theorem flatMap_range_map_range {α : Type} (f : Nat → α) (a b : Nat) :
    ((List.range a).flatMap fun x => (List.range b).map fun y => f (x * b + y)) = (List.range (a * b)).map f := by
  induction a with
  | zero => simp
  | succ a ih =>
    rw [List.range_succ, List.flatMap_append, ih, Nat.succ_mul, List.range_add, List.map_append, List.map_map]
    simp [Function.comp_def]

/-- The cells are visited in ascending order (R213). -/
theorem cellOffsets_eq : cellOffsets = List.range 1024 :=
  (flatMap_range_map_range id 32 32).trans (List.map_id _)

/-- The two bytes of a cell are those at its tile address and the next one (R214). -/
theorem rowIndices_eq (s : State) (k : Nat) :
    rowIndices s k = interleave (s.memByte (cellAddr s k)) (s.memByte (cellAddr s k + 1)) := by
  have hread : s.memRead (cellAddr s k) 2 = [s.memByte (cellAddr s k + 0#16), s.memByte (cellAddr s k + 1)] := rfl
  rw [BitVec.add_zero] at hread
  unfold rowIndices
  rw [hread]
  rfl

/-- The colour a cell writes at `m` places from its own (R215); all rows are equal. -/
def cellColour (s : State) (k m : Nat) : Word := palette ((rowIndices s k)[m % 8]'(Nat.mod_lt _ (by decide)))

/-- One row of a cell writes 8 places in ascending order. -/
theorem rowWrites_eq (s : State) (k i : Nat) :
    ((List.finRange 8).map fun j : Fin 8 => (k + i * 8 + j.val, palette (rowIndices s k)[j])) =
      (List.range 8).map fun m => (k + (i * 8 + m), cellColour s k (i * 8 + m)) := by
  rw [← List.map_coe_finRange_eq_range, List.map_map]
  refine List.map_congr_left fun j _ => Prod.ext (Nat.add_assoc k (i * 8) j.val) ?_
  have hcolumn : (i * 8 + j.val) % 8 = j.val := by omega
  simp only [cellColour, Function.comp_apply, hcolumn]
  rfl

/-- A cell writes 64 places in ascending order (R215). -/
theorem cellWrites_eq (s : State) (k : Nat) : cellWrites s k = (List.range 64).map fun m => (k + m, cellColour s k m) :=
  calc cellWrites s k
    _ = (List.finRange 8).flatMap fun i : Fin 8 =>
          (List.range 8).map fun m => (k + (i.val * 8 + m), cellColour s k (i.val * 8 + m)) :=
      congrArg (List.flatMap · _) (funext fun i : Fin 8 => rowWrites_eq s k i.val)
    _ = (List.range 8).flatMap fun i => (List.range 8).map fun m => (k + (i * 8 + m), cellColour s k (i * 8 + m)) := by
      rw [← List.map_coe_finRange_eq_range (n := 8), List.flatMap_map]
    _ = _ := flatMap_range_map_range (fun m => (k + m, cellColour s k m)) 8 8

/-! ### The frame (R217) -/

/-- Writes to a run of places in ascending order. -/
theorem getElem_foldl_writeCell (f : Nat → Word) (fb : Frame) (k m : Nat) {n : Nat} (hn : n < 65536) :
    ((List.range m).foldl (fun fb j => writeCell fb (k + j, f j)) fb)[n] =
      if k ≤ n ∧ n < k + m then f (n - k) else fb[n] := by
  induction m with
  | zero => rw [if_neg (by omega)]; rfl
  | succ m ih =>
    rw [List.range_succ, List.foldl_append, List.foldl_cons, List.foldl_nil, writeCell, Vector.getElem_setIfInBounds hn, ih]
    by_cases hlast : k + m = n
    · subst hlast
      rw [if_pos rfl, if_pos (by omega), Nat.add_sub_cancel_left]
    · rw [if_neg hlast]
      exact if_congr (by omega) rfl rfl

/-- The frame after the writes of one more cell. -/
def paintCell (s : State) (fb : Frame) (k : Nat) : Frame := (cellWrites s k).foldl writeCell fb

theorem getElem_paintCell (s : State) (fb : Frame) (k : Nat) {n : Nat} (hn : n < 65536) :
    (paintCell s fb k)[n] = if k ≤ n ∧ n < k + 64 then cellColour s k (n - k) else fb[n] := by
  simp only [paintCell, cellWrites_eq, List.foldl_map]
  exact getElem_foldl_writeCell (cellColour s k) fb k 64 hn

theorem renderFrame_eq (s : State) : renderFrame s = (List.range 1024).foldl (paintCell s) blankFrame := by
  rw [renderFrame, List.foldl_flatMap, cellOffsets_eq]
  rfl

/-- After the cells 0 to `k` each cell before `k` shows its own first colour, the 64 places from `k` on those of cell `k`. -/
theorem getElem_paint_cells (s : State) (k : Nat) {n : Nat} (hn : n < 65536) :
    ((List.range (k + 1)).foldl (paintCell s) blankFrame)[n] =
      if n < k then cellColour s n 0 else if n < k + 64 then cellColour s k (n - k) else 0 := by
  induction k with
  | zero =>
    have hblank : blankFrame[n] = 0 := Vector.getElem_replicate hn
    rw [List.range_succ, List.foldl_append, List.foldl_cons, List.foldl_nil, getElem_paintCell s _ _ hn, if_neg (Nat.not_lt_zero n)]
    exact if_congr (by omega) rfl hblank
  | succ k ih =>
    rw [List.range_succ, List.foldl_append, List.foldl_cons, List.foldl_nil, getElem_paintCell s _ _ hn, ih]
    rcases lt_trichotomy n k with hlt | rfl | hgt
    · rw [if_neg (by omega), if_pos hlt, if_pos (by omega)]
    · rw [if_neg (by omega), if_neg (by omega), if_pos (by omega), if_pos (by omega), Nat.sub_self]
    · rw [if_neg (by omega : ¬n < k + 1)]
      by_cases hin : n < k + 1 + 64
      · rw [if_pos (by omega), if_pos hin]
      · rw [if_neg (by omega), if_neg (by omega), if_neg (by omega), if_neg hin]

theorem cellColour_eq (s : State) (k m : Nat) :
    cellColour s k m = Config.palette
      ((interleave (s.memByte (cellAddr s k)) (s.memByte (cellAddr s k + 1)))[m % 8]'(Nat.mod_lt _ (by decide))) := by
  simp only [cellColour, rowIndices_eq]
  rfl

/-- Settles O33: the last cell, 1023, is the only one whose rows are not written over. -/
theorem renderFrameHasTheClosedForm : Obligations.RenderFrameHasTheClosedForm := by
  intro s mode taddr ix n hn
  have hframe : (renderFrame s)[n] =
      if n < 1023 then cellColour s n 0 else if n < 1023 + 64 then cellColour s 1023 (n - 1023) else 0 := by
    rw [renderFrame_eq]
    exact getElem_paint_cells s 1023 hn
  refine ⟨fun h => ?_, fun h h' => ?_, fun h => ?_⟩
  · have hfirst : (renderFrame s)[n] = cellColour s n 0 := by
      rcases h.lt_or_eq with hlt | rfl
      · rw [hframe, if_pos hlt]
      · exact hframe
    exact hfirst.trans (cellColour_eq s n 0)
  · rw [hframe, if_neg (by omega), if_pos (by omega)]
    exact cellColour_eq s 1023 (n - 1023)
  · rw [hframe, if_neg (by omega), if_neg (by omega)]

/-- Settles O34. -/
theorem renderFrameIsTheFourLoops : Obligations.RenderFrameIsTheFourLoops := by
  intro s mode
  unfold renderFrame cellOffsets cellWrites
  simp only [List.foldl_flatMap, List.foldl_map, rowIndices_eq]
  rw [← List.map_coe_finRange_eq_range (n := 8)]
  simp only [List.foldl_map]
  rfl

/-- Settles O38: mode and tile indices give the addresses, the addresses and the memory the colours. -/
theorem renderFrameDependsOnModeAndPortsOnly : Obligations.RenderFrameDependsOnModeAndPortsOnly := by
  intro s s' hmode hmem htile
  have hcell (k : Nat) : cellWrites s k = cellWrites s' k := by
    have haddr : cellAddr s k = cellAddr s' k := cellAddr_congr (by rw [addressingMode_eq, addressingMode_eq, hmode]) (htile _)
    unfold cellWrites
    simp only [rowIndices_eq, haddr, hmem]
  unfold renderFrame
  rw [funext hcell]

/-! ### The port calls (R72, R219) -/

theorem cellCalls_eq (s : State) (k : Nat) :
    cellCalls s k = .tileIndex (BitVec.ofNat 10 k) :: List.replicate 8 (.memRead (cellAddr s k) 2) := by
  unfold cellCalls
  rw [List.map_const', List.length_finRange]

/-- Settles O35. -/
theorem renderPortCallsComeInCellOrder : Obligations.RenderPortCallsComeInCellOrder := by
  intro s
  unfold renderCalls
  rw [cellOffsets_eq]
  exact congrArg (List.flatMap · _) (funext (cellCalls_eq s))

/-- What each cell calls equally often, a render calls 1024 times as often. -/
theorem countP_renderCalls {s : State} {p : PortCall → Bool} {c : Nat} (h : ∀ k, (cellCalls s k).countP p = c) :
    (renderCalls s).countP p = 1024 * c := by
  rw [renderCalls, List.countP_flatMap, cellOffsets_eq, funext h (f := List.countP p ∘ cellCalls s), List.map_const',
    List.sum_replicate, List.length_range, smul_eq_mul]

/-- A render of a running instance with a screen that ends has handed its frame over. -/
theorem calls_of_exec_pxRender {s t : State} (hs : s.halted = false) (hh : s.px.headless = false)
    (h : exec .pxRender s = .next t) : t.out.calls = renderCalls s ++ [.present (renderFrame s) 256 256] := by
  rcases execPxRender_next h with ⟨hs', -⟩ | ⟨-, hh', -⟩ | ⟨-, -, -, rfl⟩ | ⟨-, -, -, rfl⟩
  · exact absurd hs' (ne_true_of_eq_false hs)
  · exact absurd hh' (ne_true_of_eq_false hh)
  · rfl
  · rfl

/-- Settles O36: the counts of one cell, 1024 times, and the one `Present`. -/
theorem renderCountsOfPortCalls : Obligations.RenderCountsOfPortCalls := by
  intro s t hs hh h
  have hcount (p : PortCall → Bool) (c : Nat) (hc : ∀ k, (cellCalls s k).countP p = c) :
      t.out.calls.countP p = 1024 * c + [PortCall.present (renderFrame s) 256 256].countP p := by
    rw [calls_of_exec_pxRender hs hh h, List.countP_append, countP_renderCalls hc]
  refine ⟨?tiles, ?reads, ?present, ?length⟩
  case tiles => exact hcount _ 1 fun k => by rw [cellCalls_eq]; rfl
  case reads => exact hcount _ 8 fun k => by rw [cellCalls_eq]; rfl
  case present => exact hcount _ 0 fun k => by rw [cellCalls_eq]; rfl
  case length =>
    rw [← List.countP_true]
    exact hcount _ 9 fun k => by rw [cellCalls_eq]; rfl

/-- Every read before `Present` is a two-byte read of a cell. -/
theorem memRead_mem_renderCalls {s : State} {addr : Half} {n : Nat} (h : .memRead addr n ∈ renderCalls s) :
    n = 2 ∧ ∃ k, addr = cellAddr s k := by
  obtain ⟨k, -, hk⟩ := List.mem_flatMap.mp h
  rw [cellCalls_eq, List.mem_cons] at hk
  rcases hk with hk | hk
  · cases hk
  · cases List.eq_of_mem_replicate hk
    exact ⟨rfl, k, rfl⟩

/-- Settles O37: each read is at a cell's tile address, that of an 8-bit index in the mode. -/
theorem renderReadsOnlyTileData : Obligations.RenderReadsOnlyTileData := by
  intro s t addr n h hmem
  have hcalls : .memRead addr n ∈ renderCalls s := by
    rcases execPxRender_next h with ⟨-, rfl⟩ | ⟨-, -, rfl⟩ | ⟨hs, hh, -⟩ | ⟨hs, hh, -⟩
    · cases hmem
    · cases hmem
    all_goals
      rw [calls_of_exec_pxRender hs hh h] at hmem
      simpa using hmem
  obtain ⟨rfl, k, rfl⟩ := memRead_mem_renderCalls hcalls
  have hidx := (s.tileIndex (BitVec.ofNat 10 k)).isLt
  refine ⟨rfl, fun hmode => ?_, fun hmode => ?_⟩
  · rw [cellAddr, addressingMode_eq, hmode, if_pos rfl, tileAddrIdx_unsigned_toNat]
    omega
  · rw [cellAddr, addressingMode_eq, hmode, if_neg (by decide), tileAddrIdx_signed_toNat]
    split <;> omega

end Sys2Proof.Machine
end
